-- ==== Sys2Proof/Word.lean ====
section
/-! DEFINITION. The words of the block: the 32-bit word (00_scope.md R9 to R11), the 8-bit lane (20_memory.md R34) and
the 290-bit request vector (30_encoding.md R47). -/

namespace Sys2Proof

/-- A 32-bit word: an operand, RES, or a packed colour (R10, `W = 32`; R9, `N_W = 32`; R11, `FX_W = 32`). -/
abbrev Word := BitVec 32

/-- One 8-bit lane of a packed colour (R34). -/
abbrev Byte := BitVec 8

/-- `REQV`, the whole request as one vector (R47): REQ_OP in bits 1:0, OPND[i] in bits 32i+33:32i+2. -/
abbrev ReqV := BitVec 290

end Sys2Proof
end

