-- ==== Sys2Proof/Syntax.lean ====
section
/-! DEFINITION. The operations of the block (30_encoding.md R49, R50), one constructor per row of opcode_table.json,
with the operand words the operation reads (R48) in the order of R50. -/

namespace Sys2Proof

/-- A decoded request. Ignored operand words (R51) are no part of it. -/
inductive Instr where
  /-- `BITLEN n` (40_bitlength.md R63): `n = OPND[0]`. -/
  | bitlen (n : Word)
  /-- `PACK a, r, g, b` (41_color.md R73): `OPND[0..3]`. -/
  | pack (a r g b : Word)
  /-- `INTERP sa, sr, sg, sb, ea, er, eg, eb, t` (41_color.md R76): `OPND[0..8]`. -/
  | interp (sa sr sg sb ea er eg eb t : Word)
  /-- `RSV` (30_encoding.md R56): the reserved operation, which reads no operand. -/
  | rsv
  deriving DecidableEq, Repr

end Sys2Proof
end

