-- ==== Sys2Proof/WellFormed.lean ====
section
/-! DEFINITION. Well-formedness. The spec reserves no operand pattern in any format (30_encoding.md R57), so every
`Instr` is well formed; what can be ill formed is a number offered as a request vector (R47, R58: 290 bits, no more).
The checks on the host's drivers (70 R103) and on assembler lines (30 R60) stand in Machine/Events.lean and
Machine/Assembler.lean. -/

namespace Sys2Proof

/-- Every operand word is legal in every format (R57): no instruction is ill formed. -/
def Instr.wellFormed : Instr → Bool
  | .bitlen _ => true
  | .pack _ _ _ _ => true
  | .interp _ _ _ _ _ _ _ _ _ => true
  | .rsv => true

/-- A number is a request vector exactly when it has no bit above bit 289 (R47, R58). -/
def fitsReqV (w : Nat) : Bool := decide (w < 2 ^ 290)

end Sys2Proof
end

