-- ==== Sys2Proof/Decode.lean ====
section
/-! DEFINITION. Decoding a request vector and encoding an instruction (30_encoding.md R47 to R51, R56 to R60).
Decoding reads REQ_OP and nothing else to choose the operation (R49) and is total (R59). -/

namespace Sys2Proof

/-- `REQ_OP = REQV[1:0]` (R47). -/
def reqOp (v : ReqV) : BitVec 2 := v.extractLsb' 0 2

/-- `OPND[i] = REQV[32i+33 : 32i+2]` (R47), for `i` from 0 to 8. -/
def opnd (v : ReqV) (i : Nat) : Word := v.extractLsb' (32 * i + 2) 32

/-- The operand words each format reads (R48): `F_BL` word 0, `F_PK` words 0 to 3, `F_IN` words 0 to 8, `F_RSV` none. -/
def readsOpnd (op : BitVec 2) (i : Nat) : Bool :=
  if op = 0b00#2 then decide (i < 1)
  else if op = 0b01#2 then decide (i < 4)
  else if op = 0b10#2 then decide (i < 9)
  else false

/-- The instruction a request vector stands for (R49, R50, R59). -/
def decode (v : ReqV) : Instr :=
  if reqOp v = 0b00#2 then .bitlen (opnd v 0)
  else if reqOp v = 0b01#2 then .pack (opnd v 0) (opnd v 1) (opnd v 2) (opnd v 3)
  else if reqOp v = 0b10#2 then
    .interp (opnd v 0) (opnd v 1) (opnd v 2) (opnd v 3) (opnd v 4) (opnd v 5) (opnd v 6) (opnd v 7) (opnd v 8)
  else .rsv

/-- Why a number is not decoded. -/
inductive RawReject where
  /-- It has a bit above bit 289: a request is 290 bits and no more (R47, R58). Raised by `decodeRaw`; safe. -/
  | longerThanReqV
  deriving DecidableEq, Repr

/-- Decoding a number whose bits are numbered as REQV's; what is longer than a request is rejected by name. -/
def decodeRaw (w : Nat) : Except RawReject Instr :=
  if fitsReqV w then .ok (decode (BitVec.ofNat 290 w)) else .error .longerThanReqV

/-- The host's view of the decoder: `nbits` bits of a request numbered as opcode_table.json numbers them, every bit
above them 0. -/
def decodeTableWord (nbits w : Nat) : Option Instr :=
  match decodeRaw (w % 2 ^ nbits) with
  | .ok i => some i
  | .error _ => none

/-- The operation code of an instruction (R49). -/
def Instr.opCode : Instr → BitVec 2
  | .bitlen _ => 0b00#2
  | .pack _ _ _ _ => 0b01#2
  | .interp _ _ _ _ _ _ _ _ _ => 0b10#2
  | .rsv => 0b11#2

/-- Operand word `w` in the place of `OPND[i]` (R47): `w << (32i+2)`. -/
def placeOpnd (w : Word) (i : Nat) : ReqV := w.setWidth 290 <<< (32 * i + 2)

/-- A request vector from its fields (R47): `REQ_OP | OPND[i] << (32i+2)`. -/
def mkReqV (op : BitVec 2) (o0 o1 o2 o3 o4 o5 o6 o7 o8 : Word) : ReqV :=
  op.setWidth 290 ||| placeOpnd o0 0 ||| placeOpnd o1 1 ||| placeOpnd o2 2 ||| placeOpnd o3 3 ||| placeOpnd o4 4
    ||| placeOpnd o5 5 ||| placeOpnd o6 6 ||| placeOpnd o7 7 ||| placeOpnd o8 8

/-- The encoding of an instruction: its operands from `OPND[0]` upward, every unlisted operand word 0 (R47, R50, R60). -/
def encode : Instr → ReqV
  | .bitlen n => mkReqV 0b00#2 n 0 0 0 0 0 0 0 0
  | .pack a r g b => mkReqV 0b01#2 a r g b 0 0 0 0 0
  | .interp sa sr sg sb ea er eg eb t => mkReqV 0b10#2 sa sr sg sb ea er eg eb t
  | .rsv => mkReqV 0b11#2 0 0 0 0 0 0 0 0 0

end Sys2Proof
end

