-- ==== Sys2Proof/Config.lean ====
section
/-! DEFINITION. The build-time parameters of the block (00_scope.md R9 to R14; R27: fixed when the block is built).
The widths N_W, W and FX_W (R9, R10, R11) are 32 and are the width of `Sys2Proof.Word`. -/

namespace Sys2Proof.Config

/-- `FX_F = 16` (R11): the fractional bits of a Q16.16 operand word. -/
def fxF : Nat := 16

/-- `SCALE = 255` (R12): the factor of every channel value before truncation. -/
def scale : Int := 255

/-- `ZERO_SENTINEL = 0xFFFFFFFF` (R13): the RES word BITLEN returns for input 0. -/
def zeroSentinel : BitVec 32 := 0xFFFFFFFF

/-- `LATENCY` (R14, R106), left OPEN by the spec: cycles from acceptance to response. No rule of the model reads it
(R107: time is only the order of events); log 1. -/
opaque latency : Nat

/-- `MAX_INFLIGHT - 1` (R14), left OPEN by the spec: no value can be proved of it; log 2. -/
opaque maxInflightPred : Nat

/-- `MAX_INFLIGHT` (R14): OPEN, and at least 1. -/
def maxInflight : Nat := maxInflightPred + 1

end Sys2Proof.Config
end

