-- ==== Sys2Proof/Machine/State.lean ====
section
/-! DEFINITION. The state of the block and of the host that drives it, as plain data (10_state.md R18 to R32,
70_reset_and_hazards.md R98 to R110). INVENTORY.md lists every field with its rule and reset value. -/

namespace Sys2Proof.Machine

/-- One response (R22 to R24, R26): fields of this response alone, no registers, not sticky. -/
structure Response where
  /-- `RES`, the result word (R22). -/
  res : Word
  /-- `Z`, the zero-input flag (R23). -/
  z : Bool
  /-- `ILL`, the reserved-operation flag (R24). -/
  ill : Bool
  deriving DecidableEq, Repr

/-- The names of a response's fields, for the host's reads (R32). -/
inductive RespField where
  | res
  | z
  | ill
  deriving DecidableEq, Repr

/-- What a read of a response field delivered (R32, R108). -/
inductive ReadValue where
  | res (w : Word)
  | z (b : Bool)
  | ill (b : Bool)
  deriving DecidableEq, Repr

/-- What stands on the request port while a request is presented (R20, R47, R103). Undriven wires hold any pattern
(R51), so the bits of `wires` under an undriven field are arbitrary; log 11. -/
structure Drive where
  /-- Whose request it is: the arbiter's knowledge (60_exceptions.md R95), never seen by the block (R20); log 20. -/
  requester : Nat
  /-- The port's 290 bits as they stand (R47). -/
  wires : ReqV
  /-- The host drives REQ_OP. -/
  opDriven : Bool
  /-- Bit `i`: the host drives `OPND[i]`. -/
  opndDriven : BitVec 9
  deriving DecidableEq, Repr

/-- An accepted request as the host and the arbiter remember it (R87: a host that needs the request keeps its own copy). -/
structure Ticket where
  requester : Nat
  request : ReqV
  /-- Which accepted request it is, counted from 0 over all of them: how a host names the response it waits for (R99,
  R104; log 24). -/
  number : Nat
  deriving DecidableEq, Repr

/-- One event of a run (R108, R109); an event that is not enabled is an attempt without effect (log 4). -/
inductive Event where
  /-- The host changes what it drives on the request port; `none`: it presents nothing (R103, R108). -/
  | drive (d : Option Drive)
  /-- The block may accept the presented request (R21). -/
  | accept
  /-- The block may perform its oldest accepted request (R25). -/
  | perform
  /-- The host is ready to take a response (R104). -/
  | take
  /-- The host takes no further step until it has the response to accepted request `number` (R99, 93 I9; log 24). -/
  | awaitResponse (number : Nat)
  /-- The host reads one field of the response port (R32). -/
  | read (f : RespField)
  /-- Reset is asserted and released (R98). -/
  | reset
  deriving DecidableEq, Repr

/-- Why a run stops: the host broke a duty (R110). The block itself never faults (60_exceptions.md R84). -/
inductive Fault where
  /-- A field the operation reads, or REQ_OP, changed before acceptance (R103, 93 I6). Raised by `hostDrive`; safe. -/
  | requestChanged
  /-- A presented request was withdrawn before acceptance (R103; log 12). Raised by `hostDrive`; safe. -/
  | requestWithdrawn
  /-- A presented request leaves REQ_OP or an operand word it reads undriven (R103). Raised by `hostDrive`; safe. -/
  | requestUndriven
  /-- A response field was read while no response is presented (R32, 93 I7). Raised by `readField`; safe. -/
  | readOutsideResponse
  deriving DecidableEq, Repr

/-- Why an instruction has no meaning. Every instruction of this block has one. -/
inductive Refusal where
  /-- An instruction without a meaning yet, by its mnemonic. Raised by no arm of `exec`; safe. -/
  | notModelled (mnemonic : String)
  deriving DecidableEq, Repr

/-- The block (`inflight`, `response`), its request port (`request`), and what the host and the run keep. -/
structure State where
  /-- The in-flight queue, oldest first (R29): accepted, response not yet presented. -/
  inflight : List ReqV
  /-- The response port (R22 to R24, R31): `some` while a response is presented; no value otherwise (R32). -/
  response : Option Response
  /-- The request port (R20): `some` while the host presents a request. -/
  request : Option Drive
  /-- The events still to come (R108, 93 I10; log 4). -/
  schedule : List Event
  /-- The accepted requests that no reset discarded, in order of acceptance (R25, R104, R109). -/
  accepted : List Ticket
  /-- How many requests have been accepted, discarded ones among them: the next ticket's number (log 24). -/
  acceptances : Nat
  /-- The responses the host has taken, in order (R104, R109). -/
  taken : List Response
  /-- What the host has read from the response port, in order (R32). -/
  reads : List ReadValue
  /-- A response with ILL = 1 has been presented; never cleared (93_implementation_defined.md I5; log 9). -/
  faultRecorded : Bool
  deriving DecidableEq, Repr

/-- After reset (R31, R98): the queue is empty and no response is valid. The host's fields start empty (log 19). -/
def State.reset : State where
  inflight := []
  response := none
  request := none
  schedule := []
  accepted := []
  acceptances := 0
  taken := []
  reads := []
  faultRecorded := false

end Sys2Proof.Machine
end

