-- ==== Sys2Proof/Machine/Ops.lean ====
section
/-! DEFINITION. The shared operations: the spec's arithmetic primitives (00_scope.md R15, R16), the lane arithmetic of
the colour family (41_color.md R71, R72), the ARGB word (20_memory.md R34, R36), and the named updates of State.
The block has no exception to take and none to return from (60_exceptions.md R84, R90). -/

namespace Sys2Proof.Machine

/-- `u32(w)` (R15). -/
def u32 (w : Word) : Nat := w.toNat

/-- `s32(w)` (R15). -/
def s32 (w : Word) : Int := w.toInt

/-- `word32(v)` (R15): the word whose unsigned value is `v mod 2^32`. -/
def word32 (v : Int) : Word := BitVec.ofInt 32 v

/-- The scan behind `hsb`: the largest set bit among bits `k` down to 0 (0 where none is set). -/
def highestSetBelow (w : Word) : Nat → Nat
  | 0 => 0
  | k + 1 => if w.getLsbD (k + 1) then k + 1 else highestSetBelow w k

/-- `hsb(n)` (R16): the largest `k` in 0 to 31 with `n[k] = 1`, for a nonzero word. -/
def hsb (w : Word) : Nat := highestSetBelow w 31

/-- `clz32(n)` (R16): the number of leading zero bits. -/
def clz32 (w : Word) : Nat := ((List.range 32).takeWhile fun j => !w.getLsbD (31 - j)).length

/-- `ctz32(n)` (R16): the number of trailing zero bits. -/
def ctz32 (w : Word) : Nat := ((List.range 32).takeWhile fun j => !w.getLsbD j).length

/-- `trunc0(p, k)` (R16): the integer part, rounded toward zero, of `p / 2^k`. -/
def trunc0 (p : Int) (k : Nat) : Int := if 0 ≤ p then p / 2 ^ k else -(-p / 2 ^ k)

/-- `scaled(p, k) = trunc0(255 * p, k)` (R71). -/
def scaled (p : Int) (k : Nat) : Int := trunc0 (Config.scale * p) k

/-- `lane8(p, k) = scaled(p, k) mod 256` (R72): no clamp, the low 8 bits. -/
def lane8 (p : Int) (k : Nat) : Byte := BitVec.ofInt 8 (scaled p k)

/-- `ARGB(a8, r8, g8, b8) = {a8, r8, g8, b8}` (R34). -/
def argb (a r g b : Byte) : Word := a ++ r ++ g ++ b

/-- Lane `k` of a packed colour, `k = 0` (B) to 3 (A): bits `8k+7 : 8k` (R36). -/
def lane (w : Word) (k : Nat) : Byte := w.extractLsb' (8 * k) 8

/-- A field of a response, as a host's read delivers it (R32). -/
def Response.field (r : Response) : RespField → ReadValue
  | .res => .res r.res
  | .z => .z r.z
  | .ill => .ill r.ill

/-- Presenting a response (R25, R31), with the sticky record of ILL = 1 (93 I5). -/
def State.present (s : State) (r : Response) : State :=
  { s with response := some r, faultRecorded := s.faultRecorded || r.ill }

/-- The accepted requests and presented responses that hold a slot of MAX_INFLIGHT: a request awaits its response
until the host takes it (R29, R104; log 3). -/
def State.slotsUsed (s : State) : Nat := s.inflight.length + s.response.toList.length

/-- The observation of a run (R109): the k-th response taken with the k-th accepted request (R104). -/
def State.observation (s : State) : List (Ticket × Response) := s.accepted.zip s.taken

/-- The host has the response to accepted request `number` (R99, R104). -/
def State.answered (s : State) (number : Nat) : Bool := s.observation.any fun o => o.1.number == number

/-- What the arbiter routes to one requester (60_exceptions.md R95). -/
def State.routedTo (s : State) (requester : Nat) : List (ReqV × Response) :=
  (s.observation.filter fun o => o.1.requester == requester).map fun o => (o.1.request, o.2)

/-- The events left after the first one. -/
def State.withSchedule (s : State) (es : List Event) : State := { s with schedule := es }

/-- The in-flight queue replaced by `qs` (what is left of it once its oldest request is performed). -/
def State.withInflight (s : State) (qs : List ReqV) : State := { s with inflight := qs }

/-- The request port as the host drives it. -/
def State.withRequest (s : State) (d : Option Drive) : State := { s with request := d }

/-- Sampling a presented request whole (R21): it leaves the port and joins the queue's end. -/
def State.enqueue (s : State) (d : Drive) : State :=
  { s with
    request := none
    inflight := s.inflight ++ [d.wires]
    accepted := s.accepted ++ [⟨d.requester, d.wires, s.acceptances⟩]
    acceptances := s.acceptances + 1 }

/-- The host takes the presented response, which leaves the port (R104). -/
def State.deliver (s : State) (r : Response) : State :=
  { s with response := none, taken := s.taken ++ [r] }

/-- The host records a field it has read. -/
def State.recordRead (s : State) (v : ReadValue) : State := { s with reads := s.reads ++ [v] }

/-- Reset (R98, R99, R31): the queue is emptied and no response is valid; the discarded requests have no response, so
they leave the accepted ones (log 7, log 8). -/
def State.resetBlock (s : State) : State :=
  { s with inflight := [], response := none, accepted := s.accepted.take s.taken.length }

/-- A request placed where `step` fetches its next instruction: oldest in the queue, the response port free, and the
block's turn to perform next (log 16). -/
def State.placeRequest (s : State) (v : ReqV) : State :=
  { s with inflight := v :: s.inflight, response := none, schedule := .perform :: s.schedule }

end Sys2Proof.Machine
end

