-- ==== Sys2Proof/Machine/Operands.lean ====
section
/-! DEFINITION. The operand forms (30_encoding.md R52, R53): the unsigned BITLEN operand and the Q16.16 channel and
blend-factor operands, on raw values (41_color.md R73, R76). -/

namespace Sys2Proof.Machine

/-- The BITLEN operand `n = u32(OPND[0])` (R52). -/
def bitlenOperand (w : Word) : Nat := u32 w

/-- The raw value `s32(w)` of a Q16.16 operand word (R53): the word stands for `raw / 2^16`. -/
def fxRaw (w : Word) : Int := s32 w

/-- The rational a Q16.16 word stands for (R53), for statements; the operations compute on raw values. -/
def fx (w : Word) : Rat := (fxRaw w : Rat) / 2 ^ Config.fxF

/-- A PACK channel's lane (R73): `trunc0(255 * c, 16) mod 256`. -/
def packLane (c : Word) : Byte := lane8 (fxRaw c) Config.fxF

/-- INTERP's exact intermediate `P_c = s * 2^16 + (e - s) * t` (R76, R79), in units of 2^-32. -/
def interpExact (s e t : Word) : Int := fxRaw s * 2 ^ Config.fxF + (fxRaw e - fxRaw s) * fxRaw t

/-- An INTERP channel's lane (R76): `trunc0(255 * P_c, 32) mod 256`, one rounding (R79). -/
def interpLane (s e t : Word) : Byte := lane8 (interpExact s e t) (2 * Config.fxF)

end Sys2Proof.Machine
end

