-- ==== Sys2Proof/Machine/Flags.lean ====
section
/-! DEFINITION. The response's flags (10_state.md R23, R24; 60_exceptions.md R87). -/

namespace Sys2Proof.Machine

/-- `Z` of a BITLEN response: 1 exactly when `n = 0` (R23, R63). -/
def bitlenZ (n : Word) : Bool := bitlenOperand n == 0

/-- A normal result: `Z = 0`, `ILL = 0` (R87, first row). -/
def normalResponse (res : Word) : Response := ⟨res, false, false⟩

/-- BITLEN of zero: `Z = 1`, `ILL = 0` (R87, second row). -/
def zeroInputResponse : Response := ⟨Config.zeroSentinel, true, false⟩

/-- The reserved operation: `RES = 0`, `Z = 0`, `ILL = 1` (R56; R87, third row). -/
def reservedResponse : Response := ⟨0, false, true⟩

end Sys2Proof.Machine
end

