-- ==== Sys2Proof/Machine/BitLength.lean ====
section
/-! DEFINITION. The bit-length calculator (40_bitlength.md R62, R63). -/

namespace Sys2Proof.Machine

/-- The response of BITLEN (R63): the sentinel with Z for 0, else the position of the highest set bit. -/
def bitlenResponse (n : Word) : Response :=
  if bitlenZ n then zeroInputResponse else normalResponse (word32 (hsb n))

/-- BITLEN (R63). -/
def execBitlen (n : Word) (s : State) : Host.Outcome State Fault Refusal :=
  .next (s.present (bitlenResponse n))

end Sys2Proof.Machine
end

