-- ==== Sys2Proof/Machine/Color.lean ====
section
/-! DEFINITION. The colour packer and interpolator (41_color.md R70 to R83). -/

namespace Sys2Proof.Machine

/-- The response of PACK (R73). -/
def packResponse (a r g b : Word) : Response :=
  normalResponse (argb (packLane a) (packLane r) (packLane g) (packLane b))

/-- The response of INTERP (R76). -/
def interpResponse (sa sr sg sb ea er eg eb t : Word) : Response :=
  normalResponse (argb (interpLane sa ea t) (interpLane sr er t) (interpLane sg eg t) (interpLane sb eb t))

/-- PACK (R73). -/
def execPack (a r g b : Word) (s : State) : Host.Outcome State Fault Refusal :=
  .next (s.present (packResponse a r g b))

/-- INTERP (R76). -/
def execInterp (sa sr sg sb ea er eg eb t : Word) (s : State) : Host.Outcome State Fault Refusal :=
  .next (s.present (interpResponse sa sr sg sb ea er eg eb t))

end Sys2Proof.Machine
end

