-- ==== Sys2Proof/Machine/Reserved.lean ====
section
/-! DEFINITION. The reserved operation (30_encoding.md R56). -/

namespace Sys2Proof.Machine

/-- RSV (R56): it performs no operation and reports itself in its response. -/
def execRsv (s : State) : Host.Outcome State Fault Refusal :=
  .next (s.present reservedResponse)

end Sys2Proof.Machine
end

