-- ==== Sys2Proof/Machine/Dispatch.lean ====
section
/-! DEFINITION. Performing one request (10_state.md R25), one arm per operation (30_encoding.md R49). -/

namespace Sys2Proof.Machine

def exec (i : Instr) (s : State) : Host.Outcome State Fault Refusal :=
  match i with
  | .bitlen n => Sys2Proof.Machine.execBitlen n s
  | .pack a r g b => Sys2Proof.Machine.execPack a r g b s
  | .interp sa sr sg sb ea er eg eb t => Sys2Proof.Machine.execInterp sa sr sg sb ea er eg eb t s
  | .rsv => Sys2Proof.Machine.execRsv s

end Sys2Proof.Machine
end

