-- ==== Sys2Proof/Machine/Events.lean ====
section
/-! DEFINITION. What each event of a run does (70_reset_and_hazards.md R98 to R110, 10_state.md R18 to R32). -/

namespace Sys2Proof.Machine

/-- The host drives every field the operation reads, REQ_OP among them (R103; ignored words are exempt, R51). -/
def Drive.keepsDuty (d : Drive) : Bool :=
  d.opDriven && (List.range 9).all fun i => !readsOpnd (reqOp d.wires) i || d.opndDriven.getLsbD i

/-- Two request vectors agree on every field the operation reads (R103, R48). -/
def sameRequest (v w : ReqV) : Bool :=
  reqOp v == reqOp w && (List.range 9).all fun i => !readsOpnd (reqOp v) i || opnd v i == opnd w i

/-- The host changes its drivers on the request port (R103): a new request must be driven, a held one must stay. Only
what stands on the port is compared: that the arbiter may put another requester's equal request in a held one's place, and
that the response then goes to the requester standing at acceptance, is the model's choice (log 20). -/
def hostDrive (d : Option Drive) (s : State) : Host.Outcome State Fault Refusal :=
  match s.request, d with
  | none, none => .next s
  | none, some new => if new.keepsDuty then .next (s.withRequest (some new)) else .fault .requestUndriven
  | some _, none => .fault .requestWithdrawn
  | some held, some new =>
    if !new.opDriven then .fault .requestUndriven
    else if !sameRequest held.wires new.wires then .fault .requestChanged
    else if new.keepsDuty then .next (s.withRequest (some new))
    else .fault .requestUndriven

/-- The block may accept the presented request (R21): it does while a slot is free, else it stalls (R29, R104). -/
def acceptRequest (s : State) : Host.Outcome State Fault Refusal :=
  match s.request with
  | none => .next s
  | some d => if s.slotsUsed < Config.maxInflight then .next (s.enqueue d) else .next s

/-- The block may perform its oldest accepted request (R25, R29): it does when no response holds the port (log 13). -/
def performOldest (s : State) : Host.Outcome State Fault Refusal :=
  match s.response, s.inflight with
  | none, v :: rest => exec (decode v) (s.withInflight rest)
  | none, [] => .next s
  | some _, _ => .next s

/-- The host is ready to take a response at this instant (R104): it takes the presented one, or goes on without (log 4;
a host that waits until it has a response is `awaitResponse`). -/
def takeResponse (s : State) : Host.Outcome State Fault Refusal :=
  match s.response with
  | none => .next s
  | some r => .next (s.deliver r)

/-- The host reads a response field (R32): a fault while none is presented. -/
def readField (f : RespField) (s : State) : Host.Outcome State Fault Refusal :=
  match s.response with
  | none => .fault .readOutsideResponse
  | some r => .next (s.recordRead (r.field f))

/-- Reset (R98, R99). -/
def resetEvent (s : State) : Host.Outcome State Fault Refusal := .next s.resetBlock

/-- The block left to itself, with no event left or while the host waits (log 5): it performs its oldest request if it can, else it accepts one if it can. -/
def blockTurn (s : State) : Host.Outcome State Fault Refusal :=
  match s.response, s.inflight with
  | none, _ :: _ => performOldest s
  | none, [] => acceptRequest s
  | some _, _ => acceptRequest s

/-- The host waits for the response to accepted request `number` (R99, 93 I9; log 24). Until it has that response the
event stays first in the schedule, so no later event of the host happens; meanwhile the host takes what is presented, in
order (R104), and the block goes on unaffected. For a request that reset discarded this lasts for ever: the host is stuck. -/
def awaitResponse (number : Nat) (s : State) : Host.Outcome State Fault Refusal :=
  if s.answered number then .next s
  else
    match s.response with
    | some r => .next ((s.withSchedule (.awaitResponse number :: s.schedule)).deliver r)
    | none => blockTurn (s.withSchedule (.awaitResponse number :: s.schedule))

/-- The effect of one event, taken off the schedule before. -/
def runEvent (e : Event) (s : State) : Host.Outcome State Fault Refusal :=
  match e with
  | .drive d => hostDrive d s
  | .accept => acceptRequest s
  | .perform => performOldest s
  | .take => takeResponse s
  | .awaitResponse n => awaitResponse n s
  | .read f => readField f s
  | .reset => resetEvent s

end Sys2Proof.Machine
end

