-- ==== Sys2Proof/Machine/Step.lean ====
section
/-! DEFINITION. One step: the next event of the schedule, or the block's own turn when no event is left (log 4, log 5). -/

namespace Sys2Proof.Machine

def step (s : State) : Host.Outcome State Fault Refusal :=
  match s.schedule with
  | [] => blockTurn s
  | e :: es => runEvent e (s.withSchedule es)

/-- `s` with the request of `nbits` bits `w` (numbered as opcode_table.json numbers them, the bits above them 0) placed
where `step` fetches its next instruction; log 16. -/
def State.withFetchWord (s : State) (nbits w : Nat) : State :=
  s.placeRequest (BitVec.ofNat 290 (w % 2 ^ nbits))

end Sys2Proof.Machine
end

