-- ==== Sys2Proof/Machine/Assembler.lean ====
section
/-! DEFINITION. The textual syntax of the test programs (30_encoding.md R60, R61): one request per line, `;` starts a
comment. Text is a list of characters. Points R60 leaves open are log 18. -/

namespace Sys2Proof.Machine

/-- The mnemonics (R49, R60). -/
inductive Mnemonic where
  | bitlen
  | pack
  | interp
  | rsv
  deriving DecidableEq, Repr

/-- An operand as written (R60); digits are values, the most significant first. -/
inductive AsmOperand where
  /-- `0x` and hexadecimal digits. -/
  | hex (digits : List Nat)
  /-- A decimal number with the suffix `q`: its sign, whole digits and fraction digits. -/
  | fixed (negative : Bool) (whole frac : List Nat)
  /-- An unsigned decimal integer (BITLEN only). -/
  | dec (digits : List Nat)
  deriving DecidableEq, Repr

/-- One line with a request on it. -/
structure AsmLine where
  mnemonic : Mnemonic
  operands : List AsmOperand
  deriving DecidableEq, Repr

/-- The number a digit string stands for. -/
def digitsValue (base : Nat) (digits : List Nat) : Nat := digits.foldl (fun n d => n * base + d) 0

/-- Every digit is one of the base's. -/
def digitsOf (base : Nat) (digits : List Nat) : Bool := digits.all fun d => decide (d < base)

/-- The numerator of `v * 2^16` over `10 ^ (number of fraction digits)`, without its sign. -/
def fixedNumerator (whole frac : List Nat) : Nat := digitsValue 10 (whole ++ frac) * 2 ^ 16

/-- `v * 2^16` as an integer, signed; meant only where `fixedLegal` holds. -/
def fixedRaw (negative : Bool) (whole frac : List Nat) : Int :=
  let m : Int := ((fixedNumerator whole frac / 10 ^ frac.length : Nat) : Int)
  if negative then -m else m

/-- A `q` constant is legal only when `v * 2^16` is an integer from -2^31 to 2^31-1 (R60). -/
def fixedLegal (negative : Bool) (whole frac : List Nat) : Bool :=
  !whole.isEmpty && digitsOf 10 whole && digitsOf 10 frac
    && fixedNumerator whole frac % 10 ^ frac.length == 0
    && decide (-(2 ^ 31) ≤ fixedRaw negative whole frac) && decide (fixedRaw negative whole frac ≤ 2 ^ 31 - 1)

/-- An operand is legal on a line of mnemonic `m` (R60). -/
def AsmOperand.legal (m : Mnemonic) : AsmOperand → Bool
  | .hex ds => !ds.isEmpty && decide (ds.length ≤ 8) && digitsOf 16 ds
  | .fixed neg whole frac => fixedLegal neg whole frac
  | .dec ds => m == .bitlen && !ds.isEmpty && digitsOf 10 ds && decide (digitsValue 10 ds < 2 ^ 32)

/-- The word an operand stands for, `word32(v * 2^16)` for a `q` constant; none where it is refused (R60). -/
def AsmOperand.word (m : Mnemonic) (o : AsmOperand) : Option Word :=
  if o.legal m then
    match o with
    | .hex ds => some (BitVec.ofNat 32 (digitsValue 16 ds))
    | .fixed neg whole frac => some (BitVec.ofInt 32 (fixedRaw neg whole frac))
    | .dec ds => some (BitVec.ofNat 32 (digitsValue 10 ds))
  else none

/-- The words of all operands of a line; none where one is refused. -/
def operandWords (m : Mnemonic) : List AsmOperand → Option (List Word)
  | [] => some []
  | o :: os =>
    match o.word m, operandWords m os with
    | some w, some ws => some (w :: ws)
    | _, _ => none

/-- How many operands a mnemonic is written with (R60). -/
def Mnemonic.arity : Mnemonic → Nat
  | .bitlen => 1
  | .pack => 4
  | .interp => 9
  | .rsv => 0

/-- The instruction of a mnemonic and its operand words, in the order of R60's list. -/
def instrOf (m : Mnemonic) (ws : List Word) : Option Instr :=
  let w := fun k => ws.getD k 0
  if ws.length = m.arity then
    match m with
    | .bitlen => some (.bitlen (w 0))
    | .pack => some (.pack (w 0) (w 1) (w 2) (w 3))
    | .interp => some (.interp (w 0) (w 1) (w 2) (w 3) (w 4) (w 5) (w 6) (w 7) (w 8))
    | .rsv => some .rsv
  else none

/-- The request vector of a line (R60, R47); none where the assembler refuses it. -/
def AsmLine.assemble (l : AsmLine) : Option ReqV :=
  match operandWords l.mnemonic l.operands with
  | some ws => (instrOf l.mnemonic ws).map encode
  | none => none

/-- White space of a line. -/
def isBlank (c : Char) : Bool := c == ' ' || c == '\t' || c == '\r'

/-- A string of characters without the white space at its ends. -/
def trimmed (cs : List Char) : List Char :=
  ((cs.dropWhile isBlank).reverse.dropWhile isBlank).reverse

/-- The pieces of a text between one separating character. -/
def splitAt (sep : Char) : List Char → List (List Char)
  | [] => [[]]
  | c :: cs =>
    if c == sep then [] :: splitAt sep cs
    else
      match splitAt sep cs with
      | p :: ps => (c :: p) :: ps
      | [] => [[c]]

/-- The value of a digit character, in bases up to 16. -/
def digitValue (c : Char) : Option Nat :=
  let n := c.toNat
  if 48 ≤ n ∧ n ≤ 57 then some (n - 48)
  else if 65 ≤ n ∧ n ≤ 70 then some (n - 55)
  else if 97 ≤ n ∧ n ≤ 102 then some (n - 87)
  else none

/-- A whole string of digits of a base. -/
def digitString (base : Nat) : List Char → Option (List Nat)
  | [] => some []
  | c :: cs =>
    match digitValue c, digitString base cs with
    | some d, some ds => if d < base then some (d :: ds) else none
    | _, _ => none

/-- The number of a `q` constant without its suffix: an optional `-`, whole digits, and an optional `.` with at least
one fraction digit. -/
def parseFixed (negative : Bool) (cs : List Char) : Option AsmOperand :=
  match splitAt '.' cs with
  | [w] => (digitString 10 w).map fun ws => .fixed negative ws []
  | [w, f] =>
    match digitString 10 w, digitString 10 f with
    | some ws, some (d :: ds) => some (.fixed negative ws (d :: ds))
    | _, _ => none
  | _ => none

/-- One operand (R60). -/
def parseOperand (text : List Char) : Option AsmOperand :=
  match trimmed text with
  | '0' :: 'x' :: ds => (digitString 16 ds).map .hex
  | cs =>
    match cs.reverse with
    | 'q' :: rev =>
      match rev.reverse with
      | '-' :: ds => parseFixed true ds
      | ds => parseFixed false ds
    | _ => (digitString 10 cs).map .dec

/-- All operands of a line. -/
def parseOperands : List (List Char) → Option (List AsmOperand)
  | [] => some []
  | t :: ts =>
    match parseOperand t, parseOperands ts with
    | some o, some os => some (o :: os)
    | _, _ => none

/-- A mnemonic as R60 writes it. -/
def parseMnemonic : List Char → Option Mnemonic
  | ['B', 'I', 'T', 'L', 'E', 'N'] => some .bitlen
  | ['P', 'A', 'C', 'K'] => some .pack
  | ['I', 'N', 'T', 'E', 'R', 'P'] => some .interp
  | ['R', 'S', 'V'] => some .rsv
  | _ => none

/-- What stands on a line of text once its comment is cut off. -/
inductive ParsedLine where
  /-- Nothing: white space or a comment alone. -/
  | empty
  /-- A request. -/
  | request (l : AsmLine)
  /-- Text that R60's syntax does not have. -/
  | refused
  deriving DecidableEq, Repr

/-- One line of text (R60). -/
def parseLine (text : List Char) : ParsedLine :=
  let body := trimmed (text.takeWhile fun c => !(c == ';'))
  if body.isEmpty then .empty
  else
    let name := body.takeWhile fun c => !isBlank c
    let rest := trimmed (body.dropWhile fun c => !isBlank c)
    match parseMnemonic name, parseOperands (if rest.isEmpty then [] else splitAt ',' rest) with
    | some m, some os => .request ⟨m, os⟩
    | _, _ => .refused

/-- The requests of the lines of a program, in order; none where a line is refused. -/
def assembleLines : List (List Char) → Option (List ReqV)
  | [] => some []
  | t :: ts =>
    match parseLine t with
    | .empty => assembleLines ts
    | .refused => none
    | .request l =>
      match l.assemble, assembleLines ts with
      | some v, some vs => some (v :: vs)
      | _, _ => none

/-- A program: the sequence of requests of its text (R60; 10_state.md R19). -/
def assembleProgram (text : List Char) : Option (List ReqV) := assembleLines (splitAt '\n' text)

end Sys2Proof.Machine
end

