-- ==== Sys2Proof/Machine/Respond.lean ====
section
/-! DEFINITION. The response function (10_state.md R25), named once: what every statement about values is said with. -/

namespace Sys2Proof.Machine

/-- The response of a decoded request. -/
def respondInstr : Instr → Response
  | .bitlen n => bitlenResponse n
  | .pack a r g b => packResponse a r g b
  | .interp sa sr sg sb ea er eg eb t => interpResponse sa sr sg sb ea er eg eb t
  | .rsv => reservedResponse

/-- `respond(REQ_OP, OPND[0..8])` (R25). -/
def respond (v : ReqV) : Response := respondInstr (decode v)

end Sys2Proof.Machine
end

