-- ==== Sys2Proof/Safety.lean ====
section
/-! DEFINITION. What claims about runs are said with: a step or run in which the host keeps its duties
(70_reset_and_hazards.md R110), the end of a run (R109), and the invariant of the block (10_state.md R25, R29). -/

namespace Sys2Proof.Machine

/-- `k` steps of which none breaks a duty of the host. -/
def runSafe (k : Nat) (s : State) : Bool :=
  match Sys2Proof.core.run k s with
  | .next _ => true
  | .fault _ => false
  | .refused _ => false

/-- The end of a run (R109): every accepted request has had its response and no request is being presented. That no
event may be left either is the model's choice, not R109's (log 23). -/
def State.ended (s : State) : Bool :=
  s.inflight.isEmpty && s.response.isNone && s.request.isNone && s.schedule.isEmpty

/-- The premise of a claim that treats the reserved operation as a fault (93_implementation_defined.md I5). -/
def State.noFaultRecorded (s : State) : Bool := !s.faultRecorded

/-- Exactly one response per accepted request, in order of acceptance, each with its own request's value (R25):
taken, then presented, then still to come. -/
def State.inOrder (s : State) : Prop :=
  s.taken ++ s.response.toList ++ s.inflight.map respond = s.accepted.map fun t => respond t.request

/-- At most MAX_INFLIGHT requests await their responses (R29, R104). -/
def State.withinSlots (s : State) : Prop := s.slotsUsed ≤ Config.maxInflight

/-- A presented request is driven as R103 asks. -/
def State.requestDriven (s : State) : Prop := ∀ d, s.request = some d → d.keepsDuty = true

/-- Any response with ILL = 1 has been recorded (93 I5). -/
def State.illRecorded (s : State) : Prop :=
  ∀ r, r ∈ s.taken ++ s.response.toList → r.ill = true → s.faultRecorded = true

/-- Accepted requests are numbered in order of acceptance, each number used once (log 24). -/
def State.numbered (s : State) : Prop :=
  s.accepted.Pairwise (fun a b => a.number < b.number) ∧ ∀ a ∈ s.accepted, a.number < s.acceptances

/-- The invariant of the machine. -/
structure State.Consistent (s : State) : Prop where
  inOrder : s.inOrder
  withinSlots : s.withinSlots
  requestDriven : s.requestDriven
  illRecorded : s.illRecorded
  numbered : s.numbered

end Sys2Proof.Machine
end

