-- ==== Sys2Proof/Certificates/Slice0/Obligations.lean ====
section
/-! DEFINITION. The statements for the provers. OBLIGATIONS.json lists them with the rules they cite. -/

open Sys2Proof Sys2Proof.Machine

/-! ### Encoding (30_encoding.md) -/

/-- Four request vectors written out bit by bit from R47 (95_test_vectors.md P1 request 0, P2 request 2, P2 request 3,
P3 request 2) decode to the instructions they stand for. -/
def Obligations.WrittenOutRequestsDecode : Prop :=
  decode 0x800#290 = .bitlen 512 ∧
  decode 0x400000004000000040001#290 = .pack 0x10000 0x10000 0x10000 0 ∧
  decode 0x500000000000000040000000400000004000000000000000000000004000000040002#290
    = .interp 0x10000 0x10000 0 0 0x10000 0x10000 0x10000 0 0x14000 ∧
  decode 0x48D159E048D159E048D159E048D159E048D159E048D159E048D159E048D159E048D159E3#290 = .rsv

/-- R49, R50 and R59: `REQV[1:0]` alone chooses the operation, and each operand is the slice R47 gives it. -/
def Obligations.RequestOpChoosesTheOperation : Prop :=
  ∀ v : ReqV,
    (v.extractLsb' 0 2 = 0b00#2 → decode v = .bitlen (v.extractLsb' 2 32)) ∧
    (v.extractLsb' 0 2 = 0b01#2 →
      decode v = .pack (v.extractLsb' 2 32) (v.extractLsb' 34 32) (v.extractLsb' 66 32) (v.extractLsb' 98 32)) ∧
    (v.extractLsb' 0 2 = 0b10#2 →
      decode v = .interp (v.extractLsb' 2 32) (v.extractLsb' 34 32) (v.extractLsb' 66 32) (v.extractLsb' 98 32)
        (v.extractLsb' 130 32) (v.extractLsb' 162 32) (v.extractLsb' 194 32) (v.extractLsb' 226 32)
        (v.extractLsb' 258 32)) ∧
    (v.extractLsb' 0 2 = 0b11#2 → decode v = .rsv)

/-- Decoding the encoding of any instruction gives it back (every instruction is well formed, R57), and encoding what a
request vector decodes to gives that vector with its ignored operand words (R48) zeroed. -/
def Obligations.DecodeAndEncodeAgree : Prop :=
  (∀ i : Instr, i.wellFormed = true ∧ decode (encode i) = i) ∧
  ∀ v : ReqV, reqOp (encode (decode v)) = reqOp v ∧
    ∀ j < 9, opnd (encode (decode v)) j = if readsOpnd (reqOp v) j then opnd v j else 0

/-- R51: operand words the operation ignores have no effect, and the response is the same as with zeros there. -/
def Obligations.IgnoredOperandWordsHaveNoEffect : Prop :=
  (∀ v w : ReqV, reqOp v = reqOp w →
    (reqOp v = 0b00#2 → opnd v 0 = opnd w 0) →
    (reqOp v = 0b01#2 → ∀ j < 4, opnd v j = opnd w j) →
    (reqOp v = 0b10#2 → ∀ j < 9, opnd v j = opnd w j) →
    decode v = decode w ∧ respond v = respond w) ∧
  ∀ v : ReqV, respond v = respond (encode (decode v))

/-- R53 and R54: a word stands for `s32(w) / 2^16`, and the named Q16.16 values have their words. -/
def Obligations.FixedPointWordsHaveTheirValues : Prop :=
  (∀ w : Word, fx w = (w.toInt : Rat) / 2 ^ 16) ∧
  fx 0x80000000 = -32768 ∧ fx 0x7FFFFFFF = 32768 - 1 / 2 ^ 16 ∧ fx 0x00000000 = 0 ∧ fx 0x00004000 = 1 / 4 ∧
  fx 0x00008000 = 1 / 2 ∧ fx 0x0000C000 = 3 / 4 ∧ fx 0x00010000 = 1 ∧ fx 0x00018000 = 3 / 2 ∧ fx 0x00020000 = 2 ∧
  fx 0xFFFF8000 = -1 / 2 ∧ fx 0xFFFF0000 = -1 ∧ fx 0x0000FFFF = 1 - 1 / 2 ^ 16

/-- R60: a `q` constant of decimal digits is accepted exactly when `v * 2^16` is an integer from -2^31 to 2^31-1, and
then stands for the word with that raw value. `v` is `digits / 10^(fraction digits)` with its sign. -/
def Obligations.FixedConstantsAreExactOrRefused : Prop :=
  ∀ (m : Mnemonic) (neg : Bool) (whole frac : List Nat), whole ≠ [] → (∀ d ∈ whole ++ frac, d < 10) →
    ∀ w : Word, (AsmOperand.fixed neg whole frac).word m = some w ↔
      w.toInt * 10 ^ frac.length
        = (if neg then -1 else 1) * ((digitsValue 10 (whole ++ frac) : Nat) : Int) * 2 ^ 16

/-- R60: a `0x` operand is accepted with 1 to 8 hexadecimal digits, an unsigned decimal for BITLEN alone and up to
2^32-1; each stands for the word of its own number. That `0x` needs a digit is log 18. -/
def Obligations.HexAndDecimalOperandsStandForTheirNumbers : Prop :=
  ∀ (m : Mnemonic) (ds : List Nat) (w : Word),
    ((AsmOperand.hex ds).word m = some w ↔
      (1 ≤ ds.length ∧ ds.length ≤ 8 ∧ ∀ d ∈ ds, d < 16) ∧ w.toNat = digitsValue 16 ds) ∧
    ((AsmOperand.dec ds).word m = some w ↔
      (m = .bitlen ∧ ds ≠ [] ∧ ∀ d ∈ ds, d < 10) ∧ w.toNat = digitsValue 10 ds)

/-- R60: what the assembler accepts encodes with the mnemonic's REQ_OP, the listed operands in `OPND[0]` upward, every
unlisted operand word 0, and the mnemonic's number of operands. -/
def Obligations.AssembledLinesEncodeTheirOperands : Prop :=
  ∀ (l : AsmLine) (v : ReqV), l.assemble = some v →
    ∃ ws : List Word, l.operands.map (fun o => o.word l.mnemonic) = ws.map some ∧
      (∀ j < 9, opnd v j = ws.getD j 0) ∧
      (l.mnemonic = .bitlen → ws.length = 1 ∧ reqOp v = 0b00#2) ∧
      (l.mnemonic = .pack → ws.length = 4 ∧ reqOp v = 0b01#2) ∧
      (l.mnemonic = .interp → ws.length = 9 ∧ reqOp v = 0b10#2) ∧
      (l.mnemonic = .rsv → ws.length = 0 ∧ reqOp v = 0b11#2)

/-! ### BITLEN (40_bitlength.md) -/

/-- R63: BITLEN of 0 answers the sentinel with Z; BITLEN of any other word answers the largest `k` with `n[k] = 1`.
In both cases the instruction completes and nothing else of the state changes. -/
def Obligations.BitlenGivesTheHighestSetBit : Prop :=
  (∀ s : State, exec (.bitlen 0) s = .next { s with response := some ⟨0xFFFFFFFF, true, false⟩ }) ∧
  ∀ (n : Word) (s : State), n ≠ 0 →
    ∃ k ≤ 31, n.getLsbD k = true ∧ (∀ j, k < j → n.getLsbD j = false) ∧
      exec (.bitlen n) s = .next { s with response := some ⟨BitVec.ofNat 32 k, false, false⟩ }

/-- R66: `2^s32(RES) <= n < 2^(s32(RES)+1)` for every nonzero `n`. -/
def Obligations.BitlenBracketsItsOperand : Prop :=
  ∀ n : Word, n ≠ 0 → 0 ≤ (respondInstr (.bitlen n)).res.toInt ∧
    2 ^ (respondInstr (.bitlen n)).res.toInt.toNat ≤ n.toNat ∧
    n.toNat < 2 ^ ((respondInstr (.bitlen n)).res.toInt.toNat + 1)

/-- R64: for nonzero `n` the result is `floor(log2(n)) = 31 - clz32(n)`, in 0 to 31, with `RES[31:5] = 0`. -/
def Obligations.BitlenIsFloorLog2 : Prop :=
  ∀ n : Word, n ≠ 0 →
    (respondInstr (.bitlen n)).res.toInt = ⌊Real.logb 2 n.toNat⌋ ∧
    (respondInstr (.bitlen n)).res.toInt = 31 - (clz32 n : Int) ∧
    (respondInstr (.bitlen n)).res.toInt ≤ 31 ∧ 0 ≤ (respondInstr (.bitlen n)).res.toInt ∧
    (respondInstr (.bitlen n)).res.extractLsb' 5 27 = 0

/-- R65: on `2^k` BITLEN gives `k`, which is also `ctz32`; on any other nonzero word its result is greater than `ctz32`. -/
def Obligations.BitlenIsNotTrailingZeroCount : Prop :=
  (∀ k < 32, (respondInstr (.bitlen (BitVec.ofNat 32 (2 ^ k)))).res = BitVec.ofNat 32 k ∧
    ctz32 (BitVec.ofNat 32 (2 ^ k)) = k) ∧
  ∀ n : Word, n ≠ 0 → (∀ k < 32, n.toNat ≠ 2 ^ k) →
    (ctz32 n : Int) < (respondInstr (.bitlen n)).res.toInt

/-- R67: `s32(RES) + 1` is the 1-based bit length for every `n`, and 0 for `n = 0`. -/
def Obligations.BitlenPlusOneIsOneBased : Prop :=
  (respondInstr (.bitlen 0)).res.toInt + 1 = 0 ∧
  ∀ n : Word, 1 ≤ n.toNat → (respondInstr (.bitlen n)).res.toInt + 1 = ⌊Real.logb 2 n.toNat⌋ + 1

/-- R68: a word with bit 31 set is the unsigned number from 2^31 up, and gives 31 without any error. -/
def Obligations.BitlenTakesTopBitAsUnsigned : Prop :=
  ∀ n : Word, n.getLsbD 31 = true → 2 ^ 31 ≤ n.toNat ∧ respondInstr (.bitlen n) = ⟨31, false, false⟩

/-! ### PACK and INTERP (41_color.md, 20_memory.md) -/

/-- R71 and R72: the scaled value is `255 * p / 2^k` rounded toward zero, and the lane byte is its remainder modulo
256, from 0 to 255, with no clamp. -/
def Obligations.LaneIsTruncatedTowardZeroAndWrapped : Prop :=
  ∀ (p : Int) (k : Nat), scaled p k = Int.tdiv (255 * p) (2 ^ k) ∧
    ((lane8 p k).toNat : Int) = Int.tdiv (255 * p) (2 ^ k) % 256

/-- R34 and R36: alpha, red, green, blue from the most to the least significant byte, and lane `k` is `RES[8k+7:8k]`. -/
def Obligations.ArgbLanesBySignificance : Prop :=
  ∀ a r g b : Byte,
    (argb a r g b).toNat = a.toNat * 2 ^ 24 + r.toNat * 2 ^ 16 + g.toNat * 2 ^ 8 + b.toNat ∧
    (argb a r g b).extractLsb' 24 8 = a ∧ (argb a r g b).extractLsb' 16 8 = r ∧
    (argb a r g b).extractLsb' 8 8 = g ∧ (argb a r g b).extractLsb' 0 8 = b

/-- R73: PACK completes in every state, its lanes are `trunc0(255 * c, 16) mod 256` in ARGB order, Z = 0, ILL = 0, and
nothing else of the state changes. -/
def Obligations.PackScalesAndPacksFourChannels : Prop :=
  ∀ (a r g b : Word) (s : State), ∃ res : Word,
    exec (.pack a r g b) s = .next { s with response := some ⟨res, false, false⟩ } ∧
    ((res.extractLsb' 24 8).toNat : Int) = Int.tdiv (255 * a.toInt) (2 ^ 16) % 256 ∧
    ((res.extractLsb' 16 8).toNat : Int) = Int.tdiv (255 * r.toInt) (2 ^ 16) % 256 ∧
    ((res.extractLsb' 8 8).toNat : Int) = Int.tdiv (255 * g.toInt) (2 ^ 16) % 256 ∧
    ((res.extractLsb' 0 8).toNat : Int) = Int.tdiv (255 * b.toInt) (2 ^ 16) % 256

/-- R74: on [0.0, 1.0] a PACK lane is `floor(255 * fx(w))`, from 0 to 255, within 1 of `round(255 * fx(w))`. It is
stated of every lane `k` at once: `c` is the channel word whose lane it is. -/
def Obligations.PackNominalLaneIsFloor : Prop :=
  ∀ (a r g b c : Word) (k : Nat), (k, c) ∈ [(3, a), (2, r), (1, g), (0, b)] → 0 ≤ c.toInt → c.toInt ≤ 65536 →
    ((lane (respondInstr (.pack a r g b)).res k).toNat : Int) = ⌊255 * fx c⌋ ∧
    0 ≤ ⌊255 * fx c⌋ ∧ ⌊255 * fx c⌋ ≤ 255 ∧
    |((lane (respondInstr (.pack a r g b)).res k).toNat : Int) - round (255 * fx c)| ≤ 1

/-- R76: INTERP completes in every state, its lanes are `trunc0(255 * (s * 2^16 + (e - s) * t), 32) mod 256` in ARGB
order, Z = 0, ILL = 0, and nothing else of the state changes. -/
def Obligations.InterpBlendsAndPacksFourChannels : Prop :=
  ∀ (sa sr sg sb ea er eg eb t : Word) (s : State), ∃ res : Word,
    exec (.interp sa sr sg sb ea er eg eb t) s = .next { s with response := some ⟨res, false, false⟩ } ∧
    ((res.extractLsb' 24 8).toNat : Int)
      = Int.tdiv (255 * (sa.toInt * 2 ^ 16 + (ea.toInt - sa.toInt) * t.toInt)) (2 ^ 32) % 256 ∧
    ((res.extractLsb' 16 8).toNat : Int)
      = Int.tdiv (255 * (sr.toInt * 2 ^ 16 + (er.toInt - sr.toInt) * t.toInt)) (2 ^ 32) % 256 ∧
    ((res.extractLsb' 8 8).toNat : Int)
      = Int.tdiv (255 * (sg.toInt * 2 ^ 16 + (eg.toInt - sg.toInt) * t.toInt)) (2 ^ 32) % 256 ∧
    ((res.extractLsb' 0 8).toNat : Int)
      = Int.tdiv (255 * (sb.toInt * 2 ^ 16 + (eb.toInt - sb.toInt) * t.toInt)) (2 ^ 32) % 256

/-- R77: INTERP with `t = 0` is PACK of the start colour, with `t = 1.0` PACK of the end colour, and with equal start
and end PACK of that colour for every `t`. -/
def Obligations.InterpEndpointsArePack : Prop :=
  (∀ sa sr sg sb ea er eg eb : Word,
    respondInstr (.interp sa sr sg sb ea er eg eb 0x00000000) = respondInstr (.pack sa sr sg sb) ∧
    respondInstr (.interp sa sr sg sb ea er eg eb 0x00010000) = respondInstr (.pack ea er eg eb)) ∧
  ∀ a r g b t : Word, respondInstr (.interp a r g b a r g b t) = respondInstr (.pack a r g b)

/-- R80: with every channel and `t` in [0.0, 1.0], every INTERP lane is `floor(255 * x)` of the convex combination `x`,
which lies in [0, 1], and no lane wraps. Stated of every lane `k` at once, with its start word `c` and end word `d`. -/
def Obligations.InterpNominalLaneIsFloor : Prop :=
  ∀ (sa sr sg sb ea er eg eb t c d : Word) (k : Nat),
    (∀ w ∈ [sa, sr, sg, sb, ea, er, eg, eb, t], 0 ≤ w.toInt ∧ w.toInt ≤ 65536) →
    (k, c, d) ∈ [(3, sa, ea), (2, sr, er), (1, sg, eg), (0, sb, eb)] →
    ((lane (respondInstr (.interp sa sr sg sb ea er eg eb t)).res k).toNat : Int)
      = ⌊255 * (fx c + (fx d - fx c) * fx t)⌋ ∧
    0 ≤ fx c + (fx d - fx c) * fx t ∧ fx c + (fx d - fx c) * fx t ≤ 1 ∧
    ⌊255 * (fx c + (fx d - fx c) * fx t)⌋ ≤ 255

/-- R76, corner cases: the widths of the exact intermediates, so that 73 signed bits lose nothing. -/
def Obligations.InterpIntermediatesAreBounded : Prop :=
  ∀ s e t : Word, |(e.toInt - s.toInt) * t.toInt| < 2 ^ 63 ∧ |s.toInt * 2 ^ 16| ≤ 2 ^ 47 ∧
    |interpExact s e t| < 2 ^ 64 ∧ |255 * interpExact s e t| < 2 ^ 72

/-- R79 (95 V-IN-12): INTERP rounds once; rounding to Q16.16 first would give `0x54` in every lane. -/
def Obligations.InterpRoundsOnce : Prop :=
  respondInstr (.interp 0x8000 0x8000 0x8000 0x8000 0 0 0 0 0x5555) = ⟨0x55555555, false, false⟩ ∧
  lane8 (trunc0 (interpExact 0x8000 0 0x5555) 16) 16 = 0x54

/-- R78: INTERP does not clamp `t`: red to blue with `t = 2.0` gives `0xFF0100FE`. -/
def Obligations.InterpExtrapolatesWithLaneWrap : Prop :=
  respondInstr (.interp 0x10000 0x10000 0 0 0x10000 0 0 0x10000 0x20000) = ⟨0xFF0100FE, false, false⟩

/-- R83: a change to one channel never changes another channel's lane. -/
def Obligations.LanesDependOnTheirOwnChannel : Prop :=
  (∀ a r g b a' r' g' b' : Word,
    (a = a' → lane (respondInstr (.pack a r g b)).res 3 = lane (respondInstr (.pack a' r' g' b')).res 3) ∧
    (r = r' → lane (respondInstr (.pack a r g b)).res 2 = lane (respondInstr (.pack a' r' g' b')).res 2) ∧
    (g = g' → lane (respondInstr (.pack a r g b)).res 1 = lane (respondInstr (.pack a' r' g' b')).res 1) ∧
    (b = b' → lane (respondInstr (.pack a r g b)).res 0 = lane (respondInstr (.pack a' r' g' b')).res 0)) ∧
  ∀ sa sr sg sb ea er eg eb sa' sr' sg' sb' ea' er' eg' eb' t : Word,
    (sa = sa' → ea = ea' → lane (respondInstr (.interp sa sr sg sb ea er eg eb t)).res 3
      = lane (respondInstr (.interp sa' sr' sg' sb' ea' er' eg' eb' t)).res 3) ∧
    (sr = sr' → er = er' → lane (respondInstr (.interp sa sr sg sb ea er eg eb t)).res 2
      = lane (respondInstr (.interp sa' sr' sg' sb' ea' er' eg' eb' t)).res 2) ∧
    (sg = sg' → eg = eg' → lane (respondInstr (.interp sa sr sg sb ea er eg eb t)).res 1
      = lane (respondInstr (.interp sa' sr' sg' sb' ea' er' eg' eb' t)).res 1) ∧
    (sb = sb' → eb = eb' → lane (respondInstr (.interp sa sr sg sb ea er eg eb t)).res 0
      = lane (respondInstr (.interp sa' sr' sg' sb' ea' er' eg' eb' t)).res 0)

/-! ### RSV and the response's status (30_encoding.md, 10_state.md, 60_exceptions.md) -/

/-- R56: RSV completes in every state with RES = 0, Z = 0, ILL = 1, and leaves the block, its port and the run as they
were. (`faultRecorded` is no state of the block: it is the record 93 I5 asks of a model.) -/
def Obligations.RsvReportsItselfAndNothingElse : Prop :=
  ∀ s : State, ∃ recorded : Bool,
    exec .rsv s = .next { s with response := some ⟨0x00000000, false, true⟩, faultRecorded := recorded }

/-- R23, R24 and R87: Z exactly for BITLEN of 0, with the sentinel; ILL exactly for REQ_OP = 0b11, with RES = 0; never
both. -/
def Obligations.StatusFlagsSayZeroOrReserved : Prop :=
  ∀ v : ReqV,
    ((respond v).z = true ↔ reqOp v = 0b00#2 ∧ opnd v 0 = 0) ∧
    ((respond v).ill = true ↔ reqOp v = 0b11#2) ∧
    ((respond v).z = true → (respond v).res = 0xFFFFFFFF) ∧
    ((respond v).ill = true → (respond v).res = 0) ∧
    ¬ ((respond v).z = true ∧ (respond v).ill = true)

/-- R85: BITLEN, PACK, INTERP (and RSV) answer in every state: performing any instruction presents its response, and
changes nothing else but the record of ILL = 1 (the frame of every instruction). -/
def Obligations.EveryInstructionPresentsItsResponse : Prop :=
  ∀ (i : Instr) (s : State), exec i s = .next { s with
    response := some (respondInstr i)
    faultRecorded := s.faultRecorded || (respondInstr i).ill }

/-- R39: the same request gives the same response fields in any two states, so nothing that came before matters (R69,
R100, R102). -/
def Obligations.SameRequestSameResponse : Prop :=
  ∀ (i : Instr) (s s' : State), ∃ t t', exec i s = .next t ∧ exec i s' = .next t' ∧ t.response = t'.response

/-! ### Steps and events (10_state.md, 70_reset_and_hazards.md) -/

/-- A step that performs runs the decoded oldest request, which leaves the queue; the event that let it leaves the
schedule. That a step with no event left performs is the model's choice (log 5). -/
def Obligations.StepPerformsTheOldestRequest : Prop :=
  ∀ (s : State) (v : ReqV) (rest : List ReqV) (es : List Event), s.response = none → s.inflight = v :: rest →
    (s.schedule = .perform :: es ∨ (s.schedule = [] ∧ es = [])) →
    step s = exec (decode v) { s with inflight := rest, schedule := es }

/-- R25: a step that presents a response has performed the oldest accepted request, the response is the one that request
gives, whatever else the state holds, and that request has left the queue. -/
def Obligations.ResponsesDependOnTheirOwnRequest : Prop :=
  ∀ s t : State, step s = .next t → s.response = none → ∀ r, t.response = some r →
    ∃ v rest, s.inflight = v :: rest ∧ r = respond v ∧ t.inflight = rest

/-- R21: acceptance samples the whole presented request as it stands on the wires and puts it last in the queue, and
what the host drives later changes the request port alone, so no accepted request and no response. That a slot is free
while fewer than MAX_INFLIGHT requests are in flight or presented is log 3; the ticket's requester is log 20, its number
and `acceptances` log 24. -/
def Obligations.AcceptanceSamplesTheWholeRequest : Prop :=
  (∀ (s : State) (d : Drive) (es : List Event), s.schedule = .accept :: es → s.request = some d →
    s.inflight.length + s.response.toList.length < Config.maxInflight →
    step s = .next { s with
      schedule := es
      request := none
      inflight := s.inflight ++ [d.wires]
      accepted := s.accepted ++ [⟨d.requester, d.wires, s.acceptances⟩]
      acceptances := s.acceptances + 1 }) ∧
  ∀ (s t : State) (d : Option Drive) (es : List Event), s.schedule = .drive d :: es → step s = .next t →
    t = { s with schedule := es, request := d }

/-- A response that is presented keeps the port until it is taken: performing waits. Both that it waits (log 13) and that
the event is used up (log 4) are the model's. -/
def Obligations.PerformingWaitsForTheResponsePort : Prop :=
  ∀ (s : State) (r : Response) (es : List Event), s.schedule = .perform :: es → s.response = some r →
    step s = .next { s with schedule := es }

/-- A request vector placed by `withFetchWord`, as the opcode table numbers its bits, is performed by the very next step
(log 16). -/
def Obligations.PlacedRequestIsPerformedNext : Prop :=
  ∀ (s : State) (nbits w : Nat) (i : Instr), decodeTableWord nbits w = some i →
    step (s.withFetchWord nbits w) = exec i { s with response := none }

/-- With no event left, an idle block that is presented a request accepts it and performs it (log 5; R106: in bounded
time). -/
def Obligations.BlockLeftToItselfAnswers : Prop :=
  ∀ (s : State) (d : Drive), s.schedule = [] → s.inflight = [] → s.response = none → s.request = some d →
    ∃ t, Sys2Proof.core.run 2 s = .next t ∧ t.response = some (respond d.wires) ∧ t.inflight = [] ∧
      t.request = none ∧ t.accepted = s.accepted ++ [⟨d.requester, d.wires, s.acceptances⟩] ∧ t.taken = s.taken

/-- R104: when MAX_INFLIGHT requests await responses, no step accepts a request, and this lasts until the host takes a
presented response, by a take or while it waits (or reset discards the requests). That a presented response still holds
its slot is log 3; the waiting host is log 24. -/
def Obligations.FullBlockAcceptsNothingUntilTaken : Prop :=
  ∀ s t : State, Config.maxInflight ≤ s.slotsUsed → step s = .next t →
    (∀ es, s.schedule = .take :: es → s.response = none) →
    (∀ n es, s.schedule = .awaitResponse n :: es → s.response = none) →
    (∀ es, s.schedule ≠ .reset :: es) →
    t.accepted = s.accepted ∧ t.inflight.length ≤ s.inflight.length ∧ Config.maxInflight ≤ t.slotsUsed

/-- R103: a held request may change in its ignored words alone. Any other change before acceptance, or a field the
operation reads left undriven, is a host fault. That `new` may name another requester without fault is the model's choice
(log 20). -/
def Obligations.HeldRequestMustStayStable : Prop :=
  ∀ (s : State) (held new : Drive) (es : List Event), s.schedule = .drive (some new) :: es → s.request = some held →
    (new.keepsDuty = true → decode held.wires = decode new.wires →
      step s = .next { s with schedule := es, request := some new }) ∧
    (new.opDriven = true → decode held.wires ≠ decode new.wires → step s = .fault .requestChanged) ∧
    (new.keepsDuty = false → ∃ f, step s = .fault f)

/-- R103: a request is presented only with REQ_OP and every operand word it reads driven; its ignored words may be
undriven. -/
def Obligations.PresentedRequestMustBeDriven : Prop :=
  ∀ (s : State) (new : Drive) (es : List Event), s.schedule = .drive (some new) :: es → s.request = none →
    ((new.opDriven = true ∧
        (reqOp new.wires = 0b00#2 → new.opndDriven.getLsbD 0 = true) ∧
        (reqOp new.wires = 0b01#2 → ∀ j < 4, new.opndDriven.getLsbD j = true) ∧
        (reqOp new.wires = 0b10#2 → ∀ j < 9, new.opndDriven.getLsbD j = true)) →
      step s = .next { s with schedule := es, request := some new }) ∧
    (¬ (new.opDriven = true ∧
        (reqOp new.wires = 0b00#2 → new.opndDriven.getLsbD 0 = true) ∧
        (reqOp new.wires = 0b01#2 → ∀ j < 4, new.opndDriven.getLsbD j = true) ∧
        (reqOp new.wires = 0b10#2 → ∀ j < 9, new.opndDriven.getLsbD j = true)) →
      step s = .fault .requestUndriven)

/-- Withdrawing a presented request before acceptance breaks R103's duty to hold it (log 12: read from R103). -/
def Obligations.WithdrawingARequestFaults : Prop :=
  ∀ (s : State) (held : Drive) (es : List Event), s.schedule = .drive none :: es → s.request = some held →
    step s = .fault .requestWithdrawn

/-- R32: reading RES, Z or ILL while no response is presented is a host fault; while one is presented the read delivers
that response's field and changes nothing else. -/
def Obligations.ResponseIsReadOnlyWhilePresented : Prop :=
  ∀ (s : State) (f : RespField) (es : List Event), s.schedule = .read f :: es →
    (s.response = none → step s = .fault .readOutsideResponse) ∧
    ∀ r, s.response = some r → step s = .next { s with
      schedule := es
      reads := s.reads ++ [match f with | .res => .res r.res | .z => .z r.z | .ill => .ill r.ill] }

/-- R104: taking delivers the presented response, after those taken before, and frees the port. Without a presented
response the event is used up and changes nothing, and that is no fault: this clause is the model's choice (log 4: an
event that is not enabled is an attempt without effect), not R104's, which speaks of a host that never takes. A host that
waits for a response is `awaitResponse` (log 24). -/
def Obligations.TakingDeliversThePresentedResponse : Prop :=
  ∀ (s : State) (es : List Event), s.schedule = .take :: es →
    (s.response = none → step s = .next { s with schedule := es }) ∧
    ∀ r, s.response = some r →
      step s = .next { s with schedule := es, response := none, taken := s.taken ++ [r] }

/-- R98 and R31: reset empties the queue, asserts no response, and takes nothing back that the host has; the requests
left in `accepted` are those whose responses were taken (log 7, log 8). -/
def Obligations.ResetEmptiesTheQueue : Prop :=
  ∀ (s : State) (es : List Event), s.schedule = .reset :: es →
    step s = .next { s with
      schedule := es
      inflight := []
      response := none
      accepted := s.accepted.take s.taken.length }

/-- R31: after reset the in-flight queue is empty and no response is valid. -/
def Obligations.ResetStateHasNoRequestAndNoResponse : Prop :=
  State.reset.inflight = [] ∧ State.reset.response = none

/-- R99: a request in flight at reset gets no response: where nothing is presented to the block and nothing new is driven,
no response is ever presented or taken after the reset. That this covers a response which was presented before the reset
and not taken is the model's reading of R31 (log 7, DEDUCED), not R99's words. -/
def Obligations.DiscardedRequestsGetNoResponse : Prop :=
  ∀ (s t : State) (es : List Event), s.schedule = .reset :: es → s.request = none →
    (∀ d, Event.drive d ∉ es) → ∀ k, Sys2Proof.core.run (k + 1) s = .next t →
    t.taken = s.taken ∧ t.response = none

/-- R99 and 93 I9: a host that waits for the response to a request that was in flight at a reset waits for ever. However
many steps go by, none faults, the wait is still first in the schedule, and the response is not there. How a host waits is
the model's `awaitResponse` (log 24). -/
def Obligations.WaitingForADiscardedResponseNeverEnds : Prop :=
  ∀ (s : State) (a : Ticket) (es : List Event), s.Consistent → s.schedule = .reset :: .awaitResponse a.number :: es →
    a ∈ s.accepted.drop (s.taken.length + s.response.toList.length) →
    ∀ k, ∃ t, Sys2Proof.core.run (k + 1) s = .next t ∧ t.schedule = .awaitResponse a.number :: es ∧
      t.answered a.number = false

/-- R25: a host that waits for the response to an accepted request that no reset discarded has it within two steps for
each accepted request and one more, and then goes on with its next event. How a host waits is the model's `awaitResponse`
(log 24), that the block performs before it accepts meanwhile is log 5, and that a reset takes the discarded requests out
of `accepted` is log 8. -/
def Obligations.WaitingForAnAcceptedResponseEnds : Prop :=
  ∀ (s : State) (a : Ticket) (es : List Event), s.Consistent → s.schedule = .awaitResponse a.number :: es →
    a ∈ s.accepted →
    ∃ k ≤ 2 * s.accepted.length + 1, ∃ t, Sys2Proof.core.run k s = .next t ∧ t.schedule = es ∧
      t.answered a.number = true ∧ (a, respond a.request) ∈ t.observation

/-- R84: the block never faults and never refuses: only a change of the host's drivers or a host's read can stop a run. That
an event that is not enabled goes on without effect is the model's choice (log 4), that a broken duty stops the run its
reading (log 10). -/
def Obligations.OnlyTheHostCanStopARun : Prop :=
  ∀ s : State, (∃ t, step s = .next t) ∨
    ∃ f es, step s = .fault f ∧ ((∃ d, s.schedule = .drive d :: es) ∨ ∃ g, s.schedule = .read g :: es)

/-- The fault record of 93 I5 is never cleared, by no step and so by no run. -/
def Obligations.FaultRecordIsNeverCleared : Prop :=
  ∀ (k : Nat) (s t : State), s.faultRecorded = true → Sys2Proof.core.run k s = .next t → t.faultRecorded = true

/-! ### Runs -/

/-- Every step keeps the invariant: one response per accepted request, in order, each with its own request's value
(R25); no more than MAX_INFLIGHT requests (R29, counted as in log 3); a presented request is driven (R103); ILL = 1 is
recorded (93 I5, log 9); accepted requests have their own numbers, rising (log 24). What a reset leaves is log 7 and
log 8. -/
def Obligations.EveryStepKeepsConsistency : Prop :=
  ∀ s t : State, s.Consistent → step s = .next t → t.Consistent

/-- The state after reset meets the invariant. R31 gives the empty queue and the port without a response; the host's empty
fields and the empty record, which the invariant also reads, are the model's choice (log 19). -/
def Obligations.ResetStateIsConsistent : Prop := State.reset.Consistent

/-- R25, R104, R41, R95: in every run from a consistent state, whatever the schedule, the k-th response taken is the one
the k-th accepted request gives, and so is what the arbiter routes to any requester. The accepted requests are those no
reset discarded (log 8), with the requesters the model remembers (log 20). -/
def Obligations.RunsPairResponsesWithRequests : Prop :=
  ∀ (k : Nat) (s t : State), s.Consistent → Sys2Proof.core.run k s = .next t →
    t.taken.length ≤ t.accepted.length ∧
    (∀ p ∈ t.observation, p.2 = respond p.1.request) ∧
    ∀ requester, ∀ p ∈ t.routedTo requester, p.2 = respond p.1

/-- R109: at the end of a run every accepted request that no reset discarded (log 8) has had its response, in order. That
the end also asks for an empty schedule is the model's choice (log 23). -/
def Obligations.EndedRunsHaveEveryResponse : Prop :=
  ∀ (k : Nat) (s t : State), s.Consistent → Sys2Proof.core.run k s = .next t → t.ended = true →
    t.taken = t.accepted.map fun a => respond a.request

/-- R25: every accepted request gets its response: with a host that takes, `2 * n` steps bring out the responses of the
`n` requests in flight, in order, and leave the queue empty. -/
def Obligations.EveryAcceptedRequestIsAnswered : Prop :=
  ∀ s : State, s.response = none →
    s.schedule = (List.replicate s.inflight.length [Event.perform, Event.take]).flatten →
    ∃ t, Sys2Proof.core.run (2 * s.inflight.length) s = .next t ∧ t.inflight = [] ∧ t.response = none ∧
      t.schedule = [] ∧ t.accepted = s.accepted ∧ t.taken = s.taken ++ s.inflight.map respond

/-- R30: presenting, accepting, performing and taking requests one by one agrees with the atomic reading, which applies
`respond` to each request: for any list of driven requests, from any state that is idle. The schedule is serial, so the
queue never holds more than one request. The tickets' requesters are log 20, their numbers log 24. -/
def Obligations.QueueAgreesWithAtomicReading : Prop :=
  ∀ (s : State) (ds : List Drive), (∀ d ∈ ds, d.keepsDuty = true) →
    s.inflight = [] → s.response = none → s.request = none →
    s.schedule = (ds.map fun d => [Event.drive (some d), Event.accept, Event.perform, Event.take]).flatten →
    Sys2Proof.core.run (4 * ds.length) s = .next { s with
      schedule := []
      accepted := s.accepted ++ (ds.zipIdx s.acceptances).map fun p => ⟨p.1.requester, p.1.wires, p.2⟩
      acceptances := s.acceptances + ds.length
      taken := s.taken ++ ds.map fun d => respond d.wires
      faultRecorded := s.faultRecorded || ds.any fun d => (respond d.wires).ill }
end

