-- ==== Sys2Proof/Laws/Assembler.lean ====
section
/-! SUPPORT. What the assembler's operations give (30_encoding.md R60). -/

namespace Sys2Proof.Machine

/-- The operand words of a line are the words of its operands, one by one. -/
theorem operandWords_some {m : Mnemonic} {os : List AsmOperand} {ws : List Word} (h : operandWords m os = some ws) :
    os.map (fun o => o.word m) = ws.map some := by
  induction os generalizing ws with
  | nil => simp [operandWords] at h; subst h; rfl
  | cons o os ih =>
    simp only [operandWords] at h
    split at h
    · simp at h; subst h; simp_all
    · simp at h

/-- A mnemonic takes exactly its own number of operand words. -/
theorem instrOf_some_length {m : Mnemonic} {ws : List Word} {i : Instr} (h : instrOf m ws = some i) :
    ws.length = m.arity := by
  unfold instrOf at h
  by_contra hne
  simp [hne] at h

end Sys2Proof.Machine
end

