-- ==== Sys2Proof/Laws/Decode.lean ====
section
/-! SUPPORT. The fields of a request vector built from its fields (30_encoding.md R47). -/

namespace Sys2Proof

@[simp] theorem reqOp_or (v w : ReqV) : reqOp (v ||| w) = reqOp v ||| reqOp w := by
  apply BitVec.eq_of_getLsbD_eq
  intro j hj
  simp [reqOp, Bool.and_or_distrib_left]

@[simp] theorem opnd_or (v w : ReqV) (i : Nat) : opnd (v ||| w) i = opnd v i ||| opnd w i := by
  apply BitVec.eq_of_getLsbD_eq
  intro j hj
  simp [opnd, Bool.and_or_distrib_left]

@[simp] theorem reqOp_setWidth (op : BitVec 2) : reqOp (op.setWidth 290) = op := by
  apply BitVec.eq_of_getLsbD_eq
  intro j hj
  have h : j < 290 := by omega
  simp only [reqOp, BitVec.getLsbD_extractLsb', BitVec.getLsbD_setWidth, Nat.zero_add, hj, h, decide_true, Bool.true_and]

@[simp] theorem opnd_setWidth (op : BitVec 2) (i : Nat) : opnd (op.setWidth 290) i = 0 := by
  apply BitVec.eq_of_getLsbD_eq
  intro j hj
  have h : op.getLsbD (32 * i + 2 + j) = false := BitVec.getLsbD_of_ge _ _ (by omega)
  simp [opnd, -BitVec.getElem_setWidth, BitVec.getLsbD_setWidth, h]

@[simp] theorem reqOp_placeOpnd (w : Word) (i : Nat) : reqOp (placeOpnd w i) = 0 := by
  apply BitVec.eq_of_getLsbD_eq
  intro j hj
  have h : j < 32 * i + 2 := by omega
  simp only [reqOp, placeOpnd, BitVec.getLsbD_extractLsb', BitVec.getLsbD_shiftLeft, Nat.zero_add, h, decide_true,
    Bool.not_true, Bool.and_false, Bool.false_and, BitVec.ofNat_eq_ofNat, BitVec.getLsbD_zero]

theorem opnd_placeOpnd (w : Word) (k i : Nat) (hi : i < 9) :
    opnd (placeOpnd w k) i = if i = k then w else 0 := by
  apply BitVec.eq_of_getLsbD_eq
  intro j hj
  have hb : 32 * i + 2 + j < 290 := by omega
  simp only [opnd, placeOpnd, BitVec.getLsbD_extractLsb', BitVec.getLsbD_shiftLeft, BitVec.getLsbD_setWidth, hj, hb,
    decide_true, Bool.true_and]
  rcases Nat.lt_trichotomy i k with h | h | h
  · have h1 : 32 * i + 2 + j < 32 * k + 2 := by omega
    simp [h1, Nat.ne_of_lt h]
  · subst h
    have h1 : 32 * i + 2 + j - (32 * i + 2) = j := by omega
    have h2 : j < 290 := by omega
    have h3 : ¬ 32 * i + 2 + j < 32 * i + 2 := by omega
    simp [h1, h2, h3]
  · have h1 : w.getLsbD (32 * i + 2 + j - (32 * k + 2)) = false := BitVec.getLsbD_of_ge _ _ (by omega)
    simp [h1, Nat.ne_of_gt h]

section
variable (op : BitVec 2) (o0 o1 o2 o3 o4 o5 o6 o7 o8 : Word)

@[simp] theorem reqOp_mkReqV : reqOp (mkReqV op o0 o1 o2 o3 o4 o5 o6 o7 o8) = op := by
  simp [mkReqV]

/-- Operand word `i` of a request vector built from its fields. -/
theorem opnd_mkReqV (i : Nat) (hi : i < 9) :
    opnd (mkReqV op o0 o1 o2 o3 o4 o5 o6 o7 o8) i = [o0, o1, o2, o3, o4, o5, o6, o7, o8].getD i 0 := by
  simp only [mkReqV, opnd_or, opnd_setWidth, opnd_placeOpnd _ _ i hi]
  interval_cases i <;> simp
end

end Sys2Proof
end

