-- ==== Sys2Proof/Laws/State.lean ====
section
/-! SUPPORT. What each named update of State leaves in each field. -/

namespace Sys2Proof.Machine

@[simp] theorem State.present_inflight (s : State) (r : Response) : (s.present r).inflight = s.inflight := rfl
@[simp] theorem State.present_response (s : State) (r : Response) : (s.present r).response = some r := rfl
@[simp] theorem State.present_request (s : State) (r : Response) : (s.present r).request = s.request := rfl
@[simp] theorem State.present_schedule (s : State) (r : Response) : (s.present r).schedule = s.schedule := rfl
@[simp] theorem State.present_accepted (s : State) (r : Response) : (s.present r).accepted = s.accepted := rfl
@[simp] theorem State.present_acceptances (s : State) (r : Response) : (s.present r).acceptances = s.acceptances := rfl
@[simp] theorem State.present_taken (s : State) (r : Response) : (s.present r).taken = s.taken := rfl
@[simp] theorem State.present_reads (s : State) (r : Response) : (s.present r).reads = s.reads := rfl
@[simp] theorem State.present_faultRecorded (s : State) (r : Response) : (s.present r).faultRecorded = (s.faultRecorded || r.ill) := rfl

@[simp] theorem State.withSchedule_inflight (s : State) (es : List Event) : (s.withSchedule es).inflight = s.inflight := rfl
@[simp] theorem State.withSchedule_response (s : State) (es : List Event) : (s.withSchedule es).response = s.response := rfl
@[simp] theorem State.withSchedule_request (s : State) (es : List Event) : (s.withSchedule es).request = s.request := rfl
@[simp] theorem State.withSchedule_schedule (s : State) (es : List Event) : (s.withSchedule es).schedule = es := rfl
@[simp] theorem State.withSchedule_accepted (s : State) (es : List Event) : (s.withSchedule es).accepted = s.accepted := rfl
@[simp] theorem State.withSchedule_acceptances (s : State) (es : List Event) : (s.withSchedule es).acceptances = s.acceptances := rfl
@[simp] theorem State.withSchedule_taken (s : State) (es : List Event) : (s.withSchedule es).taken = s.taken := rfl
@[simp] theorem State.withSchedule_reads (s : State) (es : List Event) : (s.withSchedule es).reads = s.reads := rfl
@[simp] theorem State.withSchedule_faultRecorded (s : State) (es : List Event) : (s.withSchedule es).faultRecorded = s.faultRecorded := rfl

@[simp] theorem State.withInflight_inflight (s : State) (qs : List ReqV) : (s.withInflight qs).inflight = qs := rfl
@[simp] theorem State.withInflight_response (s : State) (qs : List ReqV) : (s.withInflight qs).response = s.response := rfl
@[simp] theorem State.withInflight_request (s : State) (qs : List ReqV) : (s.withInflight qs).request = s.request := rfl
@[simp] theorem State.withInflight_schedule (s : State) (qs : List ReqV) : (s.withInflight qs).schedule = s.schedule := rfl
@[simp] theorem State.withInflight_accepted (s : State) (qs : List ReqV) : (s.withInflight qs).accepted = s.accepted := rfl
@[simp] theorem State.withInflight_acceptances (s : State) (qs : List ReqV) : (s.withInflight qs).acceptances = s.acceptances := rfl
@[simp] theorem State.withInflight_taken (s : State) (qs : List ReqV) : (s.withInflight qs).taken = s.taken := rfl
@[simp] theorem State.withInflight_reads (s : State) (qs : List ReqV) : (s.withInflight qs).reads = s.reads := rfl
@[simp] theorem State.withInflight_faultRecorded (s : State) (qs : List ReqV) : (s.withInflight qs).faultRecorded = s.faultRecorded := rfl

@[simp] theorem State.withRequest_inflight (s : State) (d : Option Drive) : (s.withRequest d).inflight = s.inflight := rfl
@[simp] theorem State.withRequest_response (s : State) (d : Option Drive) : (s.withRequest d).response = s.response := rfl
@[simp] theorem State.withRequest_request (s : State) (d : Option Drive) : (s.withRequest d).request = d := rfl
@[simp] theorem State.withRequest_schedule (s : State) (d : Option Drive) : (s.withRequest d).schedule = s.schedule := rfl
@[simp] theorem State.withRequest_accepted (s : State) (d : Option Drive) : (s.withRequest d).accepted = s.accepted := rfl
@[simp] theorem State.withRequest_acceptances (s : State) (d : Option Drive) : (s.withRequest d).acceptances = s.acceptances := rfl
@[simp] theorem State.withRequest_taken (s : State) (d : Option Drive) : (s.withRequest d).taken = s.taken := rfl
@[simp] theorem State.withRequest_reads (s : State) (d : Option Drive) : (s.withRequest d).reads = s.reads := rfl
@[simp] theorem State.withRequest_faultRecorded (s : State) (d : Option Drive) : (s.withRequest d).faultRecorded = s.faultRecorded := rfl

@[simp] theorem State.enqueue_inflight (s : State) (d : Drive) : (s.enqueue d).inflight = s.inflight ++ [d.wires] := rfl
@[simp] theorem State.enqueue_response (s : State) (d : Drive) : (s.enqueue d).response = s.response := rfl
@[simp] theorem State.enqueue_request (s : State) (d : Drive) : (s.enqueue d).request = none := rfl
@[simp] theorem State.enqueue_schedule (s : State) (d : Drive) : (s.enqueue d).schedule = s.schedule := rfl
@[simp] theorem State.enqueue_accepted (s : State) (d : Drive) : (s.enqueue d).accepted = s.accepted ++ [⟨d.requester, d.wires, s.acceptances⟩] := rfl
@[simp] theorem State.enqueue_acceptances (s : State) (d : Drive) : (s.enqueue d).acceptances = s.acceptances + 1 := rfl
@[simp] theorem State.enqueue_taken (s : State) (d : Drive) : (s.enqueue d).taken = s.taken := rfl
@[simp] theorem State.enqueue_reads (s : State) (d : Drive) : (s.enqueue d).reads = s.reads := rfl
@[simp] theorem State.enqueue_faultRecorded (s : State) (d : Drive) : (s.enqueue d).faultRecorded = s.faultRecorded := rfl

@[simp] theorem State.deliver_inflight (s : State) (r : Response) : (s.deliver r).inflight = s.inflight := rfl
@[simp] theorem State.deliver_response (s : State) (r : Response) : (s.deliver r).response = none := rfl
@[simp] theorem State.deliver_request (s : State) (r : Response) : (s.deliver r).request = s.request := rfl
@[simp] theorem State.deliver_schedule (s : State) (r : Response) : (s.deliver r).schedule = s.schedule := rfl
@[simp] theorem State.deliver_accepted (s : State) (r : Response) : (s.deliver r).accepted = s.accepted := rfl
@[simp] theorem State.deliver_acceptances (s : State) (r : Response) : (s.deliver r).acceptances = s.acceptances := rfl
@[simp] theorem State.deliver_taken (s : State) (r : Response) : (s.deliver r).taken = s.taken ++ [r] := rfl
@[simp] theorem State.deliver_reads (s : State) (r : Response) : (s.deliver r).reads = s.reads := rfl
@[simp] theorem State.deliver_faultRecorded (s : State) (r : Response) : (s.deliver r).faultRecorded = s.faultRecorded := rfl

@[simp] theorem State.recordRead_inflight (s : State) (v : ReadValue) : (s.recordRead v).inflight = s.inflight := rfl
@[simp] theorem State.recordRead_response (s : State) (v : ReadValue) : (s.recordRead v).response = s.response := rfl
@[simp] theorem State.recordRead_request (s : State) (v : ReadValue) : (s.recordRead v).request = s.request := rfl
@[simp] theorem State.recordRead_schedule (s : State) (v : ReadValue) : (s.recordRead v).schedule = s.schedule := rfl
@[simp] theorem State.recordRead_accepted (s : State) (v : ReadValue) : (s.recordRead v).accepted = s.accepted := rfl
@[simp] theorem State.recordRead_acceptances (s : State) (v : ReadValue) : (s.recordRead v).acceptances = s.acceptances := rfl
@[simp] theorem State.recordRead_taken (s : State) (v : ReadValue) : (s.recordRead v).taken = s.taken := rfl
@[simp] theorem State.recordRead_reads (s : State) (v : ReadValue) : (s.recordRead v).reads = s.reads ++ [v] := rfl
@[simp] theorem State.recordRead_faultRecorded (s : State) (v : ReadValue) : (s.recordRead v).faultRecorded = s.faultRecorded := rfl

@[simp] theorem State.resetBlock_inflight (s : State) : s.resetBlock.inflight = [] := rfl
@[simp] theorem State.resetBlock_response (s : State) : s.resetBlock.response = none := rfl
@[simp] theorem State.resetBlock_request (s : State) : s.resetBlock.request = s.request := rfl
@[simp] theorem State.resetBlock_schedule (s : State) : s.resetBlock.schedule = s.schedule := rfl
@[simp] theorem State.resetBlock_accepted (s : State) : s.resetBlock.accepted = s.accepted.take s.taken.length := rfl
@[simp] theorem State.resetBlock_acceptances (s : State) : s.resetBlock.acceptances = s.acceptances := rfl
@[simp] theorem State.resetBlock_taken (s : State) : s.resetBlock.taken = s.taken := rfl
@[simp] theorem State.resetBlock_reads (s : State) : s.resetBlock.reads = s.reads := rfl
@[simp] theorem State.resetBlock_faultRecorded (s : State) : s.resetBlock.faultRecorded = s.faultRecorded := rfl

@[simp] theorem State.placeRequest_inflight (s : State) (v : ReqV) : (s.placeRequest v).inflight = v :: s.inflight := rfl
@[simp] theorem State.placeRequest_response (s : State) (v : ReqV) : (s.placeRequest v).response = none := rfl
@[simp] theorem State.placeRequest_request (s : State) (v : ReqV) : (s.placeRequest v).request = s.request := rfl
@[simp] theorem State.placeRequest_schedule (s : State) (v : ReqV) : (s.placeRequest v).schedule = .perform :: s.schedule := rfl
@[simp] theorem State.placeRequest_accepted (s : State) (v : ReqV) : (s.placeRequest v).accepted = s.accepted := rfl
@[simp] theorem State.placeRequest_acceptances (s : State) (v : ReqV) : (s.placeRequest v).acceptances = s.acceptances := rfl
@[simp] theorem State.placeRequest_taken (s : State) (v : ReqV) : (s.placeRequest v).taken = s.taken := rfl
@[simp] theorem State.placeRequest_reads (s : State) (v : ReqV) : (s.placeRequest v).reads = s.reads := rfl
@[simp] theorem State.placeRequest_faultRecorded (s : State) (v : ReqV) : (s.placeRequest v).faultRecorded = s.faultRecorded := rfl

end Sys2Proof.Machine
end

