-- ==== Sys2Proof/Laws/Events.lean ====
section
/-! SUPPORT. What performing an instruction, each event and a step can do, said once. -/

namespace Sys2Proof.Machine

/-- Performing an instruction presents its response and answers next. -/
theorem exec_eq (i : Instr) (s : State) : exec i s = .next (s.present (respondInstr i)) := by
  cases i <;> rfl

/-- What a change of the host's drivers can do when the run goes on. -/
theorem hostDrive_next {d : Option Drive} {s t : State} (h : hostDrive d s = .next t) :
    (s.request = none ∧ d = none ∧ t = s) ∨ (∃ new, d = some new ∧ new.keepsDuty = true ∧ t = s.withRequest (some new)) := by
  unfold hostDrive at h
  split at h
  · simp_all
  · split at h
    · right; simp_all
    · simp at h
  · simp at h
  · split at h
    · simp at h
    · split at h
      · simp at h
      · split at h
        · right; simp_all
        · simp at h

/-- Accepting takes the presented request, or changes nothing. -/
theorem acceptRequest_next {s t : State} (h : acceptRequest s = .next t) :
    (t = s ∧ (s.request = none ∨ Config.maxInflight ≤ s.slotsUsed)) ∨
      (∃ d, s.request = some d ∧ s.slotsUsed < Config.maxInflight ∧ t = s.enqueue d) := by
  unfold acceptRequest at h
  split at h
  · left; simp_all
  · split at h
    · right; simp_all
    · left; simp_all

/-- Performing presents the response of the oldest request, or changes nothing. -/
theorem performOldest_next {s t : State} (h : performOldest s = .next t) :
    (t = s ∧ (s.inflight = [] ∨ ∃ r, s.response = some r)) ∨
      (∃ v rest, s.response = none ∧ s.inflight = v :: rest ∧ t = (s.withInflight rest).present (respond v)) := by
  unfold performOldest at h
  split at h
  · right; simp_all [exec_eq, respond]
  · left; simp_all
  · left; simp_all

/-- Taking delivers the presented response, or changes nothing. -/
theorem takeResponse_next {s t : State} (h : takeResponse s = .next t) :
    (t = s ∧ s.response = none) ∨ (∃ r, s.response = some r ∧ t = s.deliver r) := by
  unfold takeResponse at h
  split at h <;> simp_all

/-- A read that goes on read a presented response. -/
theorem readField_next {f : RespField} {s t : State} (h : readField f s = .next t) :
    ∃ r, s.response = some r ∧ t = s.recordRead (r.field f) := by
  unfold readField at h
  split at h <;> simp_all

/-- The block left to itself performs or accepts. -/
theorem blockTurn_next {s t : State} (h : blockTurn s = .next t) : performOldest s = .next t ∨ acceptRequest s = .next t := by
  unfold blockTurn at h
  split at h <;> simp_all

/-- What the block left to itself does not touch: the schedule, and what the host has taken. -/
theorem blockTurn_frame {s t : State} (h : blockTurn s = .next t) : t.schedule = s.schedule ∧ t.taken = s.taken := by
  rcases blockTurn_next h with h | h
  · rcases performOldest_next h with ⟨rfl, -⟩ | ⟨v, rest, -, -, rfl⟩ <;> simp
  · rcases acceptRequest_next h with ⟨rfl, -⟩ | ⟨d, -, -, rfl⟩ <;> simp

/-- The block's own turn always answers next (60_exceptions.md R84). -/
theorem blockTurn_isNext (s : State) : ∃ t, blockTurn s = .next t := by
  have hp : ∀ u, ∃ t, performOldest u = .next t := fun u => by unfold performOldest; split <;> simp [exec_eq]
  have ha : ∀ u, ∃ t, acceptRequest u = .next t := fun u => by unfold acceptRequest; split <;> [simp; split <;> simp]
  unfold blockTurn
  split <;> first | exact hp _ | exact ha _

/-- A waiting host has its response, or takes the presented one, or lets the block go on; in the last two cases it goes
on waiting. -/
theorem awaitResponse_next {n : Nat} {s t : State} (h : awaitResponse n s = .next t) :
    (t = s ∧ s.answered n = true) ∨
    (s.answered n = false ∧ ∃ r, s.response = some r ∧ t = (s.withSchedule (.awaitResponse n :: s.schedule)).deliver r) ∨
    (s.answered n = false ∧ s.response = none ∧
      blockTurn (s.withSchedule (.awaitResponse n :: s.schedule)) = .next t) := by
  unfold awaitResponse at h
  split at h
  · left; simp_all
  · split at h <;> simp_all

/-- What a step that answers next did: one event of the schedule, or the block's own turn. -/
theorem step_next {s t : State} (h : step s = .next t) :
    (s.schedule = [] ∧ blockTurn s = .next t) ∨ (∃ e es, s.schedule = e :: es ∧ runEvent e (s.withSchedule es) = .next t) := by
  unfold step at h
  split at h
  · exact .inl ⟨‹_›, h⟩
  · exact .inr ⟨_, _, ‹_›, h⟩

end Sys2Proof.Machine
end

