-- ==== Sys2Proof/Laws/Ops.lean ====
section
/-! SUPPORT. What each shared arithmetic operation gives (00_scope.md R16, 20_memory.md R34, 41_color.md R71, R72). -/

namespace Sys2Proof.Machine

theorem highestSetBelow_le (w : Word) (k : Nat) : highestSetBelow w k ≤ k := by
  induction k with
  | zero => simp [highestSetBelow]
  | succ k ih => unfold highestSetBelow; split <;> omega

/-- Above the bit the scan answers, no bit up to its start is set. -/
theorem getLsbD_above_highestSetBelow (w : Word) (k j : Nat) (hlo : highestSetBelow w k < j) (hhi : j ≤ k) :
    w.getLsbD j = false := by
  induction k with
  | zero => omega
  | succ k ih =>
    unfold highestSetBelow at hlo
    split at hlo
    · omega
    · rcases Nat.eq_or_lt_of_le hhi with h | h
      · subst h; exact Bool.eq_false_iff.mpr ‹¬ _›
      · exact ih hlo (by omega)

/-- The scan answers a set bit wherever there is one at or below its start. -/
theorem getLsbD_highestSetBelow (w : Word) (k j : Nat) (hj : j ≤ k) (hset : w.getLsbD j = true) :
    w.getLsbD (highestSetBelow w k) = true := by
  induction k with
  | zero => obtain rfl : j = 0 := by omega
            simpa [highestSetBelow] using hset
  | succ k ih =>
    unfold highestSetBelow
    split
    · assumption
    · rcases Nat.eq_or_lt_of_le hj with h | h
      · subst h; exact absurd hset ‹¬ _›
      · exact ih (by omega)

/-- `hsb` of a nonzero word is its highest set bit (R16). -/
theorem hsb_spec (w : Word) (hw : w ≠ 0) :
    hsb w ≤ 31 ∧ w.getLsbD (hsb w) = true ∧ ∀ j, hsb w < j → w.getLsbD j = false := by
  refine ⟨highestSetBelow_le w 31, ?_, fun j hj => ?_⟩
  · by_contra hne
    apply hw
    apply BitVec.eq_of_getLsbD_eq
    intro j hj
    by_contra hset
    exact hne (getLsbD_highestSetBelow w 31 j (by omega) (by simpa using hset))
  · rcases Nat.lt_or_ge j 32 with h | h
    · exact getLsbD_above_highestSetBelow w 31 j hj (by omega)
    · exact BitVec.getLsbD_of_ge w j h

/-- `trunc0` rounds the quotient by a power of two toward zero (R16). -/
theorem trunc0_eq_tdiv (p : Int) (k : Nat) : trunc0 p k = p.tdiv (2 ^ k) := by
  unfold trunc0
  split
  · rw [Int.tdiv_eq_ediv_of_nonneg ‹_›]
  · rw [← Int.tdiv_eq_ediv_of_nonneg (by omega), Int.neg_tdiv, neg_neg]

/-- A lane is the scaled value's Euclidean remainder by 256 (R72). -/
theorem lane8_toNat (p : Int) (k : Nat) : ((lane8 p k).toNat : Int) = scaled p k % 256 := by
  simp [lane8, BitVec.toNat_ofInt]
  omega

/-- The bits of an ARGB word (R34). -/
theorem getLsbD_argb (a r g b : Byte) (j : Nat) : (argb a r g b).getLsbD j =
    if j < 8 then b.getLsbD j else if j < 16 then g.getLsbD (j - 8) else if j < 24 then r.getLsbD (j - 16)
    else a.getLsbD (j - 24) := by
  have h : (argb a r g b).getLsbD j = ((a ++ r ++ g ++ b : BitVec (8 + 8 + 8 + 8))).getLsbD j := rfl
  rw [h, BitVec.getLsbD_append, BitVec.getLsbD_append, BitVec.getLsbD_append]
  simp only [Nat.sub_sub]
  (repeat' split) <;> first | rfl | (exfalso; omega)

/-- The four lanes of an ARGB word (R34, R36). -/
theorem lanes_argb (a r g b : Byte) :
    lane (argb a r g b) 3 = a ∧ lane (argb a r g b) 2 = r ∧ lane (argb a r g b) 1 = g ∧ lane (argb a r g b) 0 = b := by
  refine ⟨?_, ?_, ?_, ?_⟩ <;>
    · apply BitVec.eq_of_getLsbD_eq
      intro j hj
      simp only [lane, BitVec.getLsbD_extractLsb', getLsbD_argb, hj, decide_true, Bool.true_and]
      (repeat' split) <;> first | (exfalso; omega) | (congr 1; omega)

end Sys2Proof.Machine
end

