-- ==== Sys2Proof/Laws/PerInstr.lean ====
section
/-! SUPPORT. Statements for every instruction as syntax: its encoding carries its row's operation code
(30_encoding.md R49; opcode_table.json's match under the mask 0x3). -/

namespace Sys2Proof.Laws.OpCode

/-- The encoding of `i` carries `i`'s operation code. -/
def Statement (i : Instr) : Prop := reqOp (encode i) = i.opCode

theorem bitlen (n : Word) : Statement (.bitlen n) := reqOp_mkReqV ..
theorem pack (a r g b : Word) : Statement (.pack a r g b) := reqOp_mkReqV ..
theorem interp (sa sr sg sb ea er eg eb t : Word) : Statement (.interp sa sr sg sb ea er eg eb t) := reqOp_mkReqV ..
theorem rsv : Statement .rsv := reqOp_mkReqV ..

end Sys2Proof.Laws.OpCode
end

