-- ==== Sys2Proof/Tests/Slice0.lean ====
section
/-! SUPPORT. The model's own tests. Expected values are those of 95_test_vectors.md (vector or program named beside the
test) or are worked out by hand from the rule named. -/

namespace Sys2Proof.Machine.Tests

set_option exponentiation.threshold 300

/-! Decoding words written out from 30_encoding.md R47 (95 §3). -/

theorem test_decode_bitlen : decode 0x800#290 = .bitlen 512 := by decide  -- P1 request 0
theorem test_decode_pack : decode 0x400000004000000040001#290 = .pack 0x10000 0x10000 0x10000 0 := by decide  -- P2 request 2
theorem test_decode_interp :
    decode 0x500000000000000040000000400000004000000000000000000000004000000040002#290
      = .interp 0x10000 0x10000 0 0 0x10000 0x10000 0x10000 0 0x14000 := by decide  -- P2 request 3
theorem test_decode_rsv :
    decode 0x48D159E048D159E048D159E048D159E048D159E048D159E048D159E048D159E048D159E3#290 = .rsv := by
  decide  -- P3 request 2
theorem test_decode_ignored_words :
    decode 0x37AB6FBBF7AB6FBBF7AB6FBBF7AB6FBBF7AB6FBBF7AB6FBBF7AB6FBBF7AB6FBBC00000FA0#290 = .bitlen 1000 := by
  decide  -- P3 request 3
/-- Nine different operand words, each in its own place. -/
theorem test_decode_places : decode (BitVec.ofNat 290 (2 + 1 * 2 ^ 2 + 2 * 2 ^ 34 + 3 * 2 ^ 66 + 4 * 2 ^ 98
    + 5 * 2 ^ 130 + 6 * 2 ^ 162 + 7 * 2 ^ 194 + 8 * 2 ^ 226 + 9 * 2 ^ 258)) = .interp 1 2 3 4 5 6 7 8 9 := by decide  -- R47, R50
theorem test_encode_rsv : encode .rsv = 0x3#290 := by decide  -- R60: unlisted words are zero
theorem test_encode_interp :
    encode (.interp 0x10000 0 0 0 0x10000 0x10000 0 0 0x8000)
      = 0x200000000000000000000000400000004000000000000000000000000000000040002#290 := by decide  -- P2 request 0

/-! Smoke tests of the checks: an ill-formed term for each, refused. -/

theorem test_fitsReqV_refuses : fitsReqV (2 ^ 290) = false := by decide
theorem test_fitsReqV_admits : fitsReqV (2 ^ 290 - 1) = true := by decide
theorem test_decodeTableWord_refuses : decodeTableWord 296 (2 ^ 295) = none := by decide
theorem test_decodeTableWord_rsv : decodeTableWord 8 3 = some .rsv := by decide
theorem test_asm_refuses_inexact : (AsmOperand.fixed false [0] [1]).legal .pack = false := by decide
theorem test_asm_refuses_too_large : (AsmOperand.fixed false [3, 2, 7, 6, 8] [0]).legal .pack = false := by decide
theorem test_asm_admits_least : (AsmOperand.fixed true [3, 2, 7, 6, 8] [0]).legal .pack = true := by decide
theorem test_asm_refuses_nine_digits : (AsmOperand.hex [1, 0, 0, 0, 0, 0, 0, 0, 0]).legal .pack = false := by decide
theorem test_asm_refuses_decimal_in_pack : (AsmOperand.dec [1]).legal .pack = false := by decide
theorem test_asm_refuses_wide_decimal :
    (AsmOperand.dec [4, 2, 9, 4, 9, 6, 7, 2, 9, 6]).legal .bitlen = false := by decide
theorem test_asm_refuses_count : (AsmLine.mk .pack [.hex [1]]).assemble = none := by decide
theorem test_keepsDuty_refuses : Drive.keepsDuty ⟨0, 0x1#290, true, 0x007#9⟩ = false := by decide  -- PACK, OPND[3] undriven
theorem test_keepsDuty_admits : Drive.keepsDuty ⟨0, 0x1#290, true, 0x00F#9⟩ = true := by decide
theorem test_sameRequest_refuses : sameRequest 0x4#290 0x8#290 = false := by decide  -- BITLEN 1 against BITLEN 2

/-! Assembling text (R60). -/

theorem test_asm_text : assembleProgram "BITLEN  512 ; stages\n\nPACK 1.0q, 1.0q, 1.0q, 0.0q".toList
    = some [0x800#290, 0x400000004000000040001#290] := by decide  -- P1 request 0, P2 request 2
theorem test_asm_negative : parseLine "PACK -0.5q, 0x8000, 0x0, 0xFFFFFFFF".toList
    = .request ⟨.pack, [.fixed true [0] [5], .hex [8, 0, 0, 0], .hex [0], .hex [15, 15, 15, 15, 15, 15, 15, 15]]⟩ := by
  decide
theorem test_asm_negative_word : (AsmOperand.fixed true [0] [5]).word .pack = some 0xFFFF8000 := by decide  -- R54
theorem test_asm_refuses_text : parseLine "MUL 1".toList = .refused := by decide

/-! One step of each operation, from reset with the request placed. -/

/-- The response presented by the next step, for a request placed after reset. -/
def responseTo (w : Nat) : Option Response :=
  match step (State.reset.withFetchWord 290 w) with
  | .next t => t.response
  | .fault _ => none
  | .refused _ => none

theorem test_bitlen_zero : responseTo 0 = some ⟨0xFFFFFFFF, true, false⟩ := by decide  -- V-BL-1
theorem test_bitlen_six : responseTo (6 * 4) = some ⟨2, false, false⟩ := by decide  -- V-BL-6: not ctz
theorem test_pack_wrap :
    responseTo (encode (.pack 0x20000 0xFFFF0000 0xFFFF8000 0x0000FFFF)).toNat = some ⟨0xFE0181FE, false, false⟩ := by
  decide  -- V-PK-5
theorem test_pack_extremes :
    responseTo (encode (.pack 0x7FFFFFFF 0x80000000 0xFFFFFFFF 1)).toNat = some ⟨0xFF000000, false, false⟩ := by
  decide  -- V-PK-6
theorem test_interp_single_rounding :
    responseTo (encode (.interp 0x8000 0x8000 0x8000 0x8000 0 0 0 0 0x5555)).toNat = some ⟨0x55555555, false, false⟩ := by
  decide  -- V-IN-12
theorem test_interp_extreme :
    responseTo (encode (.interp 0x80000000 0x80000000 0x80000000 0x80000000 0x7FFFFFFF 0x7FFFFFFF 0x7FFFFFFF 0x7FFFFFFF
      0x7FFFFFFF)).toNat = some ⟨0x81818181, false, false⟩ := by decide  -- V-IN-17
theorem test_rsv : responseTo 3 = some ⟨0, false, true⟩ := by decide  -- V-RSV-1
theorem test_rsv_ignored :
    responseTo 0x48D159E048D159E048D159E048D159E048D159E048D159E048D159E048D159E048D159E3
      = some ⟨0, false, true⟩ := by decide  -- V-RSV-2

/-! The events. -/

/-- A BITLEN 1024 driven by requester 7. -/
def bitlen1024 : Drive := ⟨7, 0x1000#290, true, 0x001#9⟩

/-- Reset, with a schedule. -/
def scheduled (es : List Event) : State := State.reset.withSchedule es

theorem test_drive_presents : step (scheduled [.drive (some bitlen1024)]) = .next (State.reset.withRequest (some bitlen1024)) := by
  rfl
theorem test_accept_samples : step ((scheduled [.accept]).withRequest (some bitlen1024))
    = .next { State.reset with inflight := [0x1000#290], accepted := [⟨7, 0x1000#290, 0⟩], acceptances := 1 } := by
  rfl
theorem test_read_without_response : step (scheduled [.read .z]) = .fault .readOutsideResponse := by rfl  -- R32
theorem test_reset_discards : step { State.reset with inflight := [0x1000#290], accepted := [⟨7, 0x1000#290, 0⟩], acceptances := 1, schedule := [.reset] }
    = .next { State.reset with acceptances := 1 } := by rfl  -- P4, R99

/-! Witnesses: for every statement of Certificates/Slice0/Obligations.lean with hypotheses, concrete data that meets all
of them together (for a statement of several clauses, one witness for each). -/

/-- One clause for each operation, with every operand bit set. -/
theorem witness_RequestOpChoosesTheOperation :
    (BitVec.ofNat 290 (2 ^ 290 - 4)).extractLsb' 0 2 = 0b00#2 ∧ (BitVec.ofNat 290 (2 ^ 290 - 3)).extractLsb' 0 2 = 0b01#2 ∧
    (BitVec.ofNat 290 (2 ^ 290 - 2)).extractLsb' 0 2 = 0b10#2 ∧ (BitVec.ofNat 290 (2 ^ 290 - 1)).extractLsb' 0 2 = 0b11#2 := by decide

/-- Vectors that differ in ignored words alone: BITLEN (P3 request 3), PACK (P3 request 4), INTERP (none ignored). -/
theorem witness_IgnoredOperandWordsHaveNoEffect :
    (let v := 0x37AB6FBBF7AB6FBBF7AB6FBBF7AB6FBBF7AB6FBBF7AB6FBBF7AB6FBBF7AB6FBBC00000FA0#290
     let w := 0xFA0#290
     reqOp v = 0b00#2 ∧ reqOp w = 0b00#2 ∧ opnd v 0 = opnd w 0 ∧ v ≠ w) ∧
    (let v := 0x3FFFFFFFFFFFFFFFFFFFFFFFFFFFFFFFFFFFFFFFC00000000000000000004000000040001#290
     let w := encode (.pack 0x10000 0x10000 0 0)
     reqOp v = 0b01#2 ∧ reqOp w = 0b01#2 ∧ (∀ j < 4, opnd v j = opnd w j) ∧ v ≠ w) ∧
    (let v := encode (.interp 1 2 3 4 5 6 7 8 9)
     reqOp v = 0b10#2 ∧ ∀ j < 9, opnd v j = opnd v j) := by decide

/-- The largest `q` constant, accepted, and the first one above it, refused. -/
theorem witness_FixedConstantsAreExactOrRefused :
    (AsmOperand.fixed false [3, 2, 7, 6, 7] [9, 9, 9, 9, 8, 4, 7, 4, 1, 2, 1, 0, 9, 3, 7, 5]).word .pack = some 0x7FFFFFFF ∧
    (AsmOperand.fixed false [3, 2, 7, 6, 8] []).word .pack = none ∧
    (∀ d ∈ [3, 2, 7, 6, 7] ++ [9, 9, 9, 9, 8, 4, 7, 4, 1, 2, 1, 0, 9, 3, 7, 5], d < 10) := by decide

/-- A line of each mnemonic that is assembled. -/
theorem witness_AssembledLinesEncodeTheirOperands :
    (AsmLine.mk .bitlen [.dec [5, 1, 2]]).assemble = some 0x800#290 ∧
    (AsmLine.mk .pack [.fixed false [1] [], .fixed false [1] [], .fixed false [1] [], .fixed false [0] []]).assemble
      = some 0x400000004000000040001#290 ∧
    (AsmLine.mk .interp (List.replicate 9 (.hex [0]))).assemble = some 0x2#290 ∧
    (AsmLine.mk .rsv []).assemble = some 0x3#290 := by decide

/-- Nonzero words, the least and the greatest, and a word that is no power of two: the BITLEN statements. -/
theorem witness_Bitlen : (1 : Word) ≠ 0 ∧ (0xFFFFFFFF : Word) ≠ 0 ∧ 1 ≤ (1 : Word).toNat ∧
    (0x80000000 : Word).getLsbD 31 = true ∧ (6 : Word) ≠ 0 ∧ ∀ k < 32, (6 : Word).toNat ≠ 2 ^ k := by decide

/-- Both ends of [0.0, 1.0] in each lane: the nominal statements about PACK and INTERP. -/
theorem witness_Nominal :
    (3, (0x10000 : Word)) ∈ [(3, (0x10000 : Word)), (2, 0), (1, 0x10000), (0, 0)] ∧
    (2, (0 : Word)) ∈ [(3, (0x10000 : Word)), (2, 0), (1, 0x10000), (0, 0)] ∧
    (1, (0x10000 : Word)) ∈ [(3, (0x10000 : Word)), (2, 0), (1, 0x10000), (0, 0)] ∧
    (0, (0 : Word)) ∈ [(3, (0x10000 : Word)), (2, 0), (1, 0x10000), (0, 0)] ∧
    (3, (0 : Word), (0x10000 : Word)) ∈ [(3, (0 : Word), (0x10000 : Word)), (2, 0x10000, 0), (1, 0, 0), (0, 0x10000, 0x10000)] ∧
    ∀ w ∈ [(0 : Word), 0x10000, 0, 0x10000, 0x10000, 0, 0, 0x10000, 0x10000], 0 ≤ w.toInt ∧ w.toInt ≤ 65536 := by
  refine ⟨by simp, by simp, by simp, by simp, by simp, by simp [BitVec.toInt]⟩

/-- One channel kept and the others changed. -/
theorem witness_LanesDependOnTheirOwnChannel :
    lane (packResponse 1 0x10000 0 0).res 3 = lane (packResponse 1 0 0x10000 0x10000).res 3 ∧
    packResponse 1 0x10000 0 0 ≠ packResponse 1 0 0x10000 0x10000 ∧
    lane (interpResponse 0 0 0 0x10000 0 0 0 0 0x8000).res 0 = lane (interpResponse 1 0x10000 7 0x10000 0 0 0 0 0x8000).res 0 ∧
    interpResponse 0 0 0 0x10000 0 0 0 0 0x8000 ≠ interpResponse 1 0x10000 7 0x10000 0 0 0 0 0x8000 := by decide

/-- A request in flight with the port free, by an event and by the block's own turn. -/
theorem witness_StepPerformsTheOldestRequest :
    (let s := { scheduled [.perform] with inflight := [0x800#290] }
     s.response = none ∧ s.inflight = 0x800#290 :: [] ∧ s.schedule = .perform :: []) ∧
    (let s := { State.reset with inflight := [0x3#290] }
     s.response = none ∧ s.inflight = 0x3#290 :: [] ∧ s.schedule = []) := by decide

theorem witness_ResponsesDependOnTheirOwnRequest :
    (let s := { scheduled [.perform] with inflight := [0x3#290] }
     s.response = none ∧ s.inflight = 0x3#290 :: [] ∧ ∃ t, step s = .next t ∧ t.response = some ⟨0, false, true⟩) :=
  ⟨rfl, rfl, _, rfl, by decide⟩

theorem witness_AcceptanceSamplesTheWholeRequest :
    (let s := (scheduled [.accept]).withRequest (some bitlen1024)
     s.schedule = .accept :: [] ∧ s.request = some bitlen1024 ∧
     s.inflight.length + s.response.toList.length < Config.maxInflight) := ⟨rfl, rfl, Nat.succ_pos _⟩

theorem witness_DrivingChangesTheRequestPortOnly :
    step (scheduled [.drive (some bitlen1024)]) = .next (State.reset.withRequest (some bitlen1024)) := rfl

/-- A full block with a request presented to it. -/
def fullBlock : State :=
  { scheduled [.accept] with inflight := List.replicate Config.maxInflight 0x3#290, request := some bitlen1024 }

theorem fullBlock_slots : fullBlock.slotsUsed = Config.maxInflight := by
  simp [fullBlock, scheduled, State.slotsUsed, State.reset]

theorem witness_FullBlockAcceptsNothingUntilTaken :
    Config.maxInflight ≤ fullBlock.slotsUsed ∧ step fullBlock = .next (fullBlock.withSchedule []) ∧
    (∀ es, fullBlock.schedule = .take :: es → fullBlock.response = none) ∧
    (∀ n es, fullBlock.schedule = .awaitResponse n :: es → fullBlock.response = none) ∧
    ∀ es, fullBlock.schedule ≠ .reset :: es := by
  refine ⟨fullBlock_slots.ge, ?_, ?_, ?_, ?_⟩
  rotate_left
  · simp [fullBlock, scheduled]
  · simp [fullBlock, scheduled]
  · simp [fullBlock, scheduled]
  have h : ¬ (fullBlock.withSchedule []).slotsUsed < Config.maxInflight := by
    rw [show (fullBlock.withSchedule []).slotsUsed = fullBlock.slotsUsed from rfl, fullBlock_slots]
    exact lt_irrefl _
  have hs : step fullBlock = acceptRequest (fullBlock.withSchedule []) := rfl
  have hr : (fullBlock.withSchedule []).request = some bitlen1024 := rfl
  rw [hs, acceptRequest, hr]
  exact if_neg h

theorem witness_PerformingWaitsForTheResponsePort :
    (let s := { scheduled [.perform] with response := some reservedResponse }
     s.schedule = .perform :: [] ∧ s.response = some reservedResponse) := by decide

/-- At most 296 bits (the row in whole bytes) and one byte: both decode. -/
theorem witness_PlacedRequestIsPerformedNext :
    decodeTableWord 296 0x800 = some (.bitlen 512) ∧ decodeTableWord 8 3 = some .rsv := by decide

theorem witness_BlockLeftToItselfAnswers :
    (let s := State.reset.withRequest (some bitlen1024)
     s.schedule = [] ∧ s.inflight = [] ∧ s.response = none ∧ s.request = some bitlen1024) := by decide

/-- A held BITLEN 1024 whose ignored words change, that becomes another request, and that is left undriven. -/
theorem witness_HeldRequestMustStayStable :
    (let new : Drive := ⟨7, 0x1000#290 ||| placeOpnd 5 8, true, 0x001#9⟩
     new.keepsDuty = true ∧ decode bitlen1024.wires = decode new.wires) ∧
    (let new : Drive := ⟨7, 0x1001#290, true, 0x1FF#9⟩
     new.opDriven = true ∧ decode bitlen1024.wires ≠ decode new.wires) ∧
    (let new : Drive := ⟨7, 0x1000#290, true, 0x1FE#9⟩
     new.keepsDuty = false) := by decide

/-- Presented requests with exactly the words they read driven, and one with a word short. -/
theorem witness_PresentedRequestMustBeDriven :
    (let new : Drive := ⟨0, 0x1#290, true, 0x00F#9⟩
     new.opDriven = true ∧ (reqOp new.wires = 0b00#2 → new.opndDriven.getLsbD 0 = true) ∧
     (reqOp new.wires = 0b01#2 → ∀ j < 4, new.opndDriven.getLsbD j = true) ∧
     (reqOp new.wires = 0b10#2 → ∀ j < 9, new.opndDriven.getLsbD j = true)) ∧
    (let new : Drive := ⟨0, 0x2#290, true, 0x0FF#9⟩
     ¬ (reqOp new.wires = 0b10#2 → ∀ j < 9, new.opndDriven.getLsbD j = true)) ∧
    (scheduled [.drive (some bitlen1024)]).request = none := by decide

theorem witness_WithdrawingARequestFaults :
    (let s := (scheduled [.drive none]).withRequest (some bitlen1024)
     s.schedule = .drive none :: [] ∧ s.request = some bitlen1024) := by decide

/-- Each clause about the response port: nothing presented, and a response presented. -/
theorem witness_ReadAndTake :
    ((scheduled [.read .res]).schedule = .read .res :: [] ∧ (scheduled [.read .res]).response = none) ∧
    (let s := { scheduled [.read .ill] with response := some reservedResponse }
     s.schedule = .read .ill :: [] ∧ s.response = some reservedResponse) ∧
    ((scheduled [.take]).schedule = .take :: [] ∧ (scheduled [.take]).response = none) ∧
    (let s := { scheduled [.take] with response := some reservedResponse }
     s.schedule = .take :: [] ∧ s.response = some reservedResponse) := by decide

/-- A reset with a request in flight, and a run of two steps after which the host still waits. -/
theorem witness_Reset :
    (let s := { scheduled [.reset, .perform, .take] with inflight := [0x1000#290], accepted := [⟨7, 0x1000#290, 0⟩], acceptances := 1 }
     s.schedule = .reset :: [.perform, .take] ∧ s.request = none ∧ (∀ d, Event.drive d ∉ [Event.perform, .take]) ∧
     Sys2Proof.core.run (1 + 1) s = .next { scheduled [.take] with acceptances := 1 }) :=
  ⟨rfl, rfl, by simp, rfl⟩

theorem witness_FaultRecordIsNeverCleared :
    (let s := { scheduled [.reset] with faultRecorded := true }
     s.faultRecorded = true ∧ Sys2Proof.core.run 1 s = .next (s.withSchedule [])) := ⟨rfl, rfl⟩

/-- A consistent state with a request in flight. -/
def oneInFlight : State :=
  { scheduled [.perform, .take] with inflight := [0x1000#290], accepted := [⟨7, 0x1000#290, 0⟩], acceptances := 1 }

theorem oneInFlight_consistent : oneInFlight.Consistent := by
  refine ⟨rfl, Nat.succ_le_succ (Nat.zero_le _), ?_, ?_, ?_⟩
  · simp [State.requestDriven, oneInFlight, scheduled, State.reset]
  · simp [State.illRecorded, oneInFlight, scheduled, State.reset]
  · simp [State.numbered, oneInFlight, scheduled, State.reset]

/-- The state after its two events: the run has ended. -/
def oneAnswered : State :=
  { State.reset with accepted := [⟨7, 0x1000#290, 0⟩], acceptances := 1, taken := [⟨10, false, false⟩] }

/-- The invariant and run statements: one step, and a run that ends with its response taken. -/
theorem witness_Runs :
    oneInFlight.Consistent ∧ (∃ t, step oneInFlight = .next t) ∧
    Sys2Proof.core.run 2 oneInFlight = .next oneAnswered ∧ oneAnswered.ended = true ∧
    (⟨⟨7, 0x1000#290, 0⟩, ⟨10, false, false⟩⟩ : Ticket × Response) ∈ oneAnswered.observation ∧
    (⟨0x1000#290, ⟨10, false, false⟩⟩ : ReqV × Response) ∈ oneAnswered.routedTo 7 :=
  ⟨oneInFlight_consistent, ⟨_, rfl⟩, rfl, rfl, by decide, by decide⟩

/-- A request in flight at a reset whose host waits for it (P4), and one that no reset meets. -/
theorem witness_Waiting :
    (let s := oneInFlight.withSchedule [.reset, .awaitResponse 0]
     s.Consistent ∧ s.schedule = .reset :: .awaitResponse 0 :: [] ∧
     (⟨7, 0x1000#290, 0⟩ : Ticket) ∈ s.accepted.drop (s.taken.length + s.response.toList.length)) ∧
    (let s := oneInFlight.withSchedule [.awaitResponse 0]
     s.Consistent ∧ s.schedule = .awaitResponse 0 :: [] ∧ (⟨7, 0x1000#290, 0⟩ : Ticket) ∈ s.accepted) := by
  have h := oneInFlight_consistent
  exact ⟨⟨⟨h.1, h.2, h.3, h.4, h.5⟩, rfl, by decide⟩, ⟨h.1, h.2, h.3, h.4, h.5⟩, rfl, by decide⟩

/-- Two events of a waiting host: it goes on waiting after a reset, where nothing is left to come (93 I9). -/
theorem test_await_stuck :
    step { scheduled [.awaitResponse 0, .take] with acceptances := 1 }
      = .next { scheduled [.awaitResponse 0, .take] with acceptances := 1 } := by rfl
theorem test_await_takes :
    step { scheduled [.awaitResponse 0] with response := some ⟨10, false, false⟩, accepted := [⟨7, 0x1000#290, 0⟩], acceptances := 1 }
      = .next { scheduled [.awaitResponse 0] with accepted := [⟨7, 0x1000#290, 0⟩], acceptances := 1, taken := [⟨10, false, false⟩] } := by
  rfl

theorem witness_EveryAcceptedRequestIsAnswered :
    oneInFlight.response = none ∧
    oneInFlight.schedule = (List.replicate oneInFlight.inflight.length [Event.perform, Event.take]).flatten := by decide

theorem witness_QueueAgreesWithAtomicReading :
    (let s := scheduled [.drive (some bitlen1024), .accept, .perform, .take]
     (∀ d ∈ [bitlen1024], d.keepsDuty = true) ∧ s.inflight = [] ∧ s.response = none ∧ s.request = none ∧
     s.schedule = ([bitlen1024].map fun d => [Event.drive (some d), Event.accept, Event.perform, Event.take]).flatten) := by
  decide

end Sys2Proof.Machine.Tests
end

/-! SUPPORT. What each event does where it is enabled, said forwards (70_reset_and_hazards.md R104, R108). -/

section
namespace Sys2Proof.Machine

section
variable {s : State} {es : List Event}

theorem step_of_no_event (h : s.schedule = []) : step s = blockTurn s := by
  simp [step, h]

theorem step_of_event {e : Event} (h : s.schedule = e :: es) : step s = runEvent e (s.withSchedule es) := by
  simp [step, h]

theorem step_of_drive {d : Option Drive} (h : s.schedule = .drive d :: es) :
    step s = hostDrive d (s.withSchedule es) := step_of_event h

theorem step_of_accept (h : s.schedule = .accept :: es) : step s = acceptRequest (s.withSchedule es) := step_of_event h

theorem step_of_perform (h : s.schedule = .perform :: es) : step s = performOldest (s.withSchedule es) := step_of_event h

theorem step_of_take (h : s.schedule = .take :: es) : step s = takeResponse (s.withSchedule es) := step_of_event h

theorem step_of_awaitResponse {n : Nat} (h : s.schedule = .awaitResponse n :: es) :
    step s = awaitResponse n (s.withSchedule es) := step_of_event h

theorem step_of_read {f : RespField} (h : s.schedule = .read f :: es) :
    step s = readField f (s.withSchedule es) := step_of_event h

end

/-- With the port free, performing runs the decoded oldest request. -/
theorem performOldest_eq_exec {s : State} {v : ReqV} {rest : List ReqV} (hfree : s.response = none)
    (hq : s.inflight = v :: rest) : performOldest s = exec (decode v) (s.withInflight rest) := by
  simp [performOldest, hfree, hq]

/-- With the port free, performing presents the oldest request's own response (10_state.md R25). -/
theorem performOldest_presents {s : State} {v : ReqV} {rest : List ReqV} (hfree : s.response = none)
    (hq : s.inflight = v :: rest) :
    performOldest s = .next ((s.withInflight rest).present (respond v)) := by
  rw [performOldest_eq_exec hfree hq, exec_eq, respond]

theorem performOldest_of_presented {s : State} {r : Response} (h : s.response = some r) :
    performOldest s = .next s := by
  simp [performOldest, h]

/-- The block left to itself performs its oldest request where the port is free. -/
theorem blockTurn_eq_performOldest {s : State} {v : ReqV} {rest : List ReqV} (hfree : s.response = none)
    (hq : s.inflight = v :: rest) : blockTurn s = performOldest s := by
  simp [blockTurn, hfree, hq]

theorem takeResponse_of_presented {s : State} {r : Response} (h : s.response = some r) :
    takeResponse s = .next (s.deliver r) := by
  simp [takeResponse, h]

theorem acceptRequest_of_slot {s : State} {d : Drive} (hd : s.request = some d)
    (hslot : s.slotsUsed < Config.maxInflight) : acceptRequest s = .next (s.enqueue d) := by
  simp [acceptRequest, hd, hslot]

theorem hostDrive_of_free {s : State} {d : Drive} (hfree : s.request = none) (hd : d.keepsDuty = true) :
    hostDrive (some d) s = .next (s.withRequest (some d)) := by
  simp [hostDrive, hfree, hd]

theorem readField_of_free {s : State} (f : RespField) (h : s.response = none) :
    readField f s = .fault .readOutsideResponse := by
  simp [readField, h]

theorem readField_of_presented {s : State} {r : Response} (f : RespField) (h : s.response = some r) :
    readField f s = .next (s.recordRead (r.field f)) := by
  simp [readField, h]

theorem awaitResponse_of_answered {s : State} {n : Nat} (h : s.answered n = true) :
    awaitResponse n s = .next s := by
  simp [awaitResponse, h]

theorem awaitResponse_of_presented {s : State} {n : Nat} {r : Response} (h : s.answered n = false)
    (hr : s.response = some r) :
    awaitResponse n s = .next ((s.withSchedule (.awaitResponse n :: s.schedule)).deliver r) := by
  simp [awaitResponse, h, hr]

theorem awaitResponse_of_free {s : State} {n : Nat} (h : s.answered n = false) (hr : s.response = none) :
    awaitResponse n s = blockTurn (s.withSchedule (.awaitResponse n :: s.schedule)) := by
  simp [awaitResponse, h, hr]

end Sys2Proof.Machine
end

/-! SUPPORT. The invariant under each named update of State, and under each event. -/

section
namespace Sys2Proof.Machine

/-- The responses taken are those of the accepted requests that stand first (10_state.md R25). -/
theorem State.inOrder.taken_eq {s : State} (h : s.inOrder) :
    s.taken = (s.accepted.take s.taken.length).map fun a => respond a.request := by
  rw [List.map_take, ← h, List.append_assoc, List.take_left]

/-- Taken, presented and still to come are as many as the accepted requests. -/
theorem State.inOrder.length_eq {s : State} (h : s.inOrder) :
    s.taken.length + s.response.toList.length + s.inflight.length = s.accepted.length := by
  simpa [Nat.add_assoc] using congrArg List.length h

namespace State.Consistent

variable {s : State}

theorem withSchedule (h : s.Consistent) (es : List Event) : (s.withSchedule es).Consistent :=
  ⟨h.inOrder, h.withinSlots, h.requestDriven, h.illRecorded, h.numbered⟩

theorem withRequest (h : s.Consistent) {d : Drive} (hd : d.keepsDuty = true) :
    (s.withRequest (some d)).Consistent where
  inOrder := h.inOrder
  withinSlots := h.withinSlots
  requestDriven := by rintro _ ⟨⟩; exact hd
  illRecorded := h.illRecorded
  numbered := h.numbered

theorem recordRead (h : s.Consistent) (v : ReadValue) : (s.recordRead v).Consistent :=
  ⟨h.inOrder, h.withinSlots, h.requestDriven, h.illRecorded, h.numbered⟩

/-- Acceptance with a slot free: the new request comes last, and its number is above all others. -/
theorem enqueue (h : s.Consistent) (d : Drive) (hslot : s.slotsUsed < Config.maxInflight) :
    (s.enqueue d).Consistent where
  inOrder := by
    have hin := h.inOrder
    simp only [State.inOrder] at hin
    simp [State.inOrder, ← hin]
  withinSlots := by
    simp only [State.withinSlots, State.slotsUsed, State.enqueue_inflight, State.enqueue_response,
      List.length_append, List.length_singleton] at hslot ⊢
    omega
  requestDriven := by simp [State.requestDriven]
  illRecorded := h.illRecorded
  numbered := by
    obtain ⟨hpair, hlt⟩ := h.numbered
    refine ⟨?_, fun a ha => ?_⟩
    · simpa [List.pairwise_append, hpair] using hlt
    · rcases List.mem_append.mp ha with ha | ha
      · exact Nat.lt_succ_of_lt (hlt a ha)
      · obtain rfl := List.mem_singleton.mp ha
        exact Nat.lt_succ_self _

/-- Performing the oldest request: its response moves from those to come onto the port, and keeps its slot. -/
theorem present (h : s.Consistent) {v : ReqV} {rest : List ReqV} (hfree : s.response = none)
    (hq : s.inflight = v :: rest) : ((s.withInflight rest).present (respond v)).Consistent where
  inOrder := by simpa [State.inOrder, hfree, hq] using h.inOrder
  withinSlots := by simpa [State.withinSlots, State.slotsUsed, hfree, hq] using h.withinSlots
  requestDriven := h.requestDriven
  illRecorded := by
    intro r hr hill
    rcases List.mem_append.mp hr with hr | hr
    · have hrec := h.illRecorded r (List.mem_append_left _ hr) hill
      simp [hrec]
    · obtain rfl : r = respond v := by simpa using hr
      simp [hill]
  numbered := h.numbered

/-- Taking: the presented response joins those taken, and its slot is free. -/
theorem deliver (h : s.Consistent) {r : Response} (hr : s.response = some r) : (s.deliver r).Consistent where
  inOrder := by simpa [State.inOrder, hr] using h.inOrder
  withinSlots := by
    have hslots := h.withinSlots
    simp only [State.withinSlots, State.slotsUsed, State.deliver_inflight, State.deliver_response,
      Option.toList_none, List.length_nil] at hslots ⊢
    omega
  requestDriven := h.requestDriven
  illRecorded := by simpa [State.illRecorded, hr] using h.illRecorded
  numbered := h.numbered

/-- Reset: the accepted requests that stay are those whose responses were taken. -/
theorem resetBlock (h : s.Consistent) : s.resetBlock.Consistent where
  inOrder := by simpa [State.inOrder] using h.inOrder.taken_eq
  withinSlots := by simp [State.withinSlots, State.slotsUsed]
  requestDriven := h.requestDriven
  illRecorded r hr := h.illRecorded r (List.mem_append_left _ (by simpa using hr))
  numbered := by
    obtain ⟨hpair, hlt⟩ := h.numbered
    exact ⟨hpair.sublist (List.take_sublist ..), fun a ha => hlt a (List.mem_of_mem_take ha)⟩

/-! The events. -/

variable {t : State}

theorem of_hostDrive (h : s.Consistent) {d : Option Drive} (ht : hostDrive d s = .next t) : t.Consistent := by
  rcases hostDrive_next ht with ⟨-, -, rfl⟩ | ⟨new, -, hnew, rfl⟩
  · exact h
  · exact h.withRequest hnew

theorem of_acceptRequest (h : s.Consistent) (ht : acceptRequest s = .next t) : t.Consistent := by
  rcases acceptRequest_next ht with ⟨rfl, -⟩ | ⟨d, -, hslot, rfl⟩
  · exact h
  · exact h.enqueue d hslot

theorem of_performOldest (h : s.Consistent) (ht : performOldest s = .next t) : t.Consistent := by
  rcases performOldest_next ht with ⟨rfl, -⟩ | ⟨v, rest, hfree, hq, rfl⟩
  · exact h
  · exact h.present hfree hq

theorem of_takeResponse (h : s.Consistent) (ht : takeResponse s = .next t) : t.Consistent := by
  rcases takeResponse_next ht with ⟨rfl, -⟩ | ⟨r, hr, rfl⟩
  · exact h
  · exact h.deliver hr

theorem of_readField (h : s.Consistent) {f : RespField} (ht : readField f s = .next t) : t.Consistent := by
  obtain ⟨r, -, rfl⟩ := readField_next ht
  exact h.recordRead _

theorem of_blockTurn (h : s.Consistent) (ht : blockTurn s = .next t) : t.Consistent :=
  (blockTurn_next ht).elim h.of_performOldest h.of_acceptRequest

theorem of_awaitResponse (h : s.Consistent) {n : Nat} (ht : awaitResponse n s = .next t) : t.Consistent := by
  rcases awaitResponse_next ht with ⟨rfl, -⟩ | ⟨-, r, hr, rfl⟩ | ⟨-, -, ht⟩
  · exact h
  · exact (h.withSchedule _).deliver hr
  · exact (h.withSchedule _).of_blockTurn ht

theorem of_runEvent (h : s.Consistent) {e : Event} (ht : runEvent e s = .next t) : t.Consistent := by
  cases e with
  | drive d => exact h.of_hostDrive ht
  | accept => exact h.of_acceptRequest ht
  | perform => exact h.of_performOldest ht
  | take => exact h.of_takeResponse ht
  | awaitResponse n => exact h.of_awaitResponse ht
  | read f => exact h.of_readField ht
  | reset => cases ht; exact h.resetBlock

theorem of_step (h : s.Consistent) (ht : step s = .next t) : t.Consistent := by
  rcases step_next ht with ⟨-, ht⟩ | ⟨e, es, -, ht⟩
  · exact h.of_blockTurn ht
  · exact (h.withSchedule es).of_runEvent ht

theorem of_run (h : s.Consistent) {k : Nat} (ht : Sys2Proof.core.run k s = .next t) : t.Consistent :=
  run_induction (fun _ _ => Consistent.of_step) k s t h ht

end State.Consistent

/-- Settles O47: each event is one of the named updates, and each update keeps every clause of the invariant. -/
theorem everyStepKeepsConsistency : Obligations.EveryStepKeepsConsistency :=
  fun _ _ => State.Consistent.of_step

/-- Settles O48: with every list empty and no response, each clause speaks of nothing. -/
theorem resetStateIsConsistent : Obligations.ResetStateIsConsistent where
  inOrder := rfl
  withinSlots := Nat.zero_le _
  requestDriven := by simp [State.requestDriven, State.reset]
  illRecorded := by simp [State.illRecorded, State.reset]
  numbered := by simp [State.numbered, State.reset]

/-- Settles O43: the two fields as `State.reset` gives them (R31). -/
theorem resetStateHasNoRequestAndNoResponse : Obligations.ResetStateHasNoRequestAndNoResponse :=
  ⟨rfl, rfl⟩

end Sys2Proof.Machine
end

/-! SUPPORT. What the host observes in a consistent state: pairs of an accepted request and its own response. -/

section
namespace Sys2Proof.Machine

theorem zip_map_take {α β : Type} (f : α → β) (l : List α) (n : Nat) :
    l.zip ((l.take n).map f) = (l.take n).map fun a => (a, f a) := by
  induction l generalizing n with
  | nil => simp
  | cons a l ih => cases n <;> simp [-List.map_take, ih]

/-- The observation pairs each of the accepted requests that stand first with the response it gives. -/
theorem State.inOrder.observation_eq {s : State} (h : s.inOrder) :
    s.observation = (s.accepted.take s.taken.length).map fun a => (a, respond a.request) := by
  conv_lhs => rw [State.observation, h.taken_eq]
  exact zip_map_take ..

theorem State.inOrder.respond_of_mem_observation {s : State} (h : s.inOrder) {p : Ticket × Response}
    (hp : p ∈ s.observation) : p.2 = respond p.1.request := by
  rw [h.observation_eq] at hp
  obtain ⟨a, -, rfl⟩ := List.mem_map.mp hp
  rfl

theorem State.inOrder.respond_of_mem_routedTo {s : State} (h : s.inOrder) {requester : Nat} {p : ReqV × Response}
    (hp : p ∈ s.routedTo requester) : p.2 = respond p.1 := by
  obtain ⟨o, ho, rfl⟩ := List.mem_map.mp hp
  exact h.respond_of_mem_observation (List.mem_of_mem_filter ho)

/-- Settles O49: the invariant holds after every run, and its equation pairs requests with responses. -/
theorem runsPairResponsesWithRequests : Obligations.RunsPairResponsesWithRequests := by
  intro k s t hs hrun
  have hin : t.inOrder := (hs.of_run hrun).inOrder
  have hlen := hin.length_eq
  exact ⟨by omega, fun _ => hin.respond_of_mem_observation, fun _ _ => hin.respond_of_mem_routedTo⟩

/-- In a consistent state a request's number stands for that request alone. -/
theorem State.numbered.eq_of_number_eq {s : State} (h : s.numbered) {a b : Ticket} (ha : a ∈ s.accepted)
    (hb : b ∈ s.accepted) (hab : a.number = b.number) : a = b := by
  have hinj : (s.accepted.map Ticket.number).Nodup := by
    rw [List.Nodup, List.pairwise_map]
    exact h.1.imp Nat.ne_of_lt
  exact List.inj_on_of_nodup_map hinj ha hb hab

/-- A host that has the response to an accepted request's number has that request's own response. -/
theorem State.Consistent.mem_observation_of_answered {s : State} (h : s.Consistent) {a : Ticket}
    (ha : a ∈ s.accepted) (hans : s.answered a.number = true) : (a, respond a.request) ∈ s.observation := by
  obtain ⟨⟨b, r⟩, hb, hnum⟩ := List.any_eq_true.mp hans
  have hr : r = respond b.request := h.inOrder.respond_of_mem_observation hb
  have hba : b = a := h.numbered.eq_of_number_eq (List.of_mem_zip hb).1 ha (by simpa using hnum)
  rwa [hr, hba] at hb

/-- Once nothing is in flight and nothing presented, every accepted request is answered. -/
theorem State.Consistent.answered_of_drained {s : State} (h : s.Consistent) {a : Ticket} (ha : a ∈ s.accepted)
    (hq : s.inflight = []) (hr : s.response = none) : s.answered a.number = true := by
  have hlen := h.inOrder.length_eq
  simp only [hq, hr, Option.toList_none, List.length_nil, Nat.add_zero] at hlen
  rw [State.answered, h.inOrder.observation_eq, hlen, List.take_length]
  simpa using ⟨a, ha, rfl⟩

end Sys2Proof.Machine
end

/-! SUPPORT. A host that waits for a response (R104; log 24): the steps that are left before it has it. -/

section
namespace Sys2Proof.Machine

/-- How many steps bring out and deliver every response that is presented or still to come: two for each request in
flight, one for the presented response. -/
def State.stepsToDrain (s : State) : Nat := 2 * s.inflight.length + s.response.toList.length

/-- While the host waits for an accepted request's response, each step is one of those that are left. -/
theorem step_of_waiting {s : State} {a : Ticket} {es : List Event} (h : s.Consistent)
    (hsch : s.schedule = .awaitResponse a.number :: es) (ha : a ∈ s.accepted)
    (hans : s.answered a.number = false) :
    ∃ t, step s = .next t ∧ t.schedule = s.schedule ∧ t.accepted = s.accepted ∧
      t.stepsToDrain + 1 = s.stepsToDrain := by
  have hstep : step s = awaitResponse a.number (s.withSchedule es) := step_of_awaitResponse hsch
  cases hr : s.response with
  | some r =>
    refine ⟨_, hstep.trans (awaitResponse_of_presented hans hr), ?_, rfl, ?_⟩
    · simp [hsch]
    · simp [State.stepsToDrain, hr]
  | none =>
    cases hq : s.inflight with
    | nil => simp [h.answered_of_drained ha hq hr] at hans
    | cons v rest =>
      let u := s.withSchedule (.awaitResponse a.number :: es)
      have hu : step s = .next ((u.withInflight rest).present (respond v)) := calc
        step s = blockTurn u := hstep.trans (awaitResponse_of_free hans hr)
        _ = performOldest u := blockTurn_eq_performOldest hr hq
        _ = _ := performOldest_presents hr hq
      refine ⟨_, hu, hsch.symm, rfl, ?_⟩
      simp [u, State.stepsToDrain, hq, hr, Nat.mul_succ]

/-- A host that waits for an accepted request's response has it when the steps that are left have gone by. -/
theorem run_of_waiting {s : State} {a : Ticket} {es : List Event} (h : s.Consistent)
    (hsch : s.schedule = .awaitResponse a.number :: es) (ha : a ∈ s.accepted) :
    ∃ k ≤ s.stepsToDrain + 1, ∃ t, Sys2Proof.core.run k s = .next t ∧ t.schedule = es ∧
      t.answered a.number = true ∧ (a, respond a.request) ∈ t.observation := by
  cases hans : s.answered a.number with
  | true =>
    have hstep := (step_of_awaitResponse hsch).trans (awaitResponse_of_answered hans)
    exact ⟨1, by omega, s.withSchedule es, run_of_step hstep, rfl, hans,
      (h.withSchedule es).mem_observation_of_answered ha hans⟩
  | false =>
    obtain ⟨u, hstep, husch, huacc, hu⟩ := step_of_waiting h hsch ha hans
    obtain ⟨k, hk, t, hrun, ht⟩ := run_of_waiting (h.of_step hstep) (husch.trans hsch) (huacc ▸ ha)
    exact ⟨k + 1, by omega, t, (run_of_step hstep).trans hrun, ht⟩
termination_by s.stepsToDrain

theorem State.inOrder.stepsToDrain_le {s : State} (h : s.inOrder) : s.stepsToDrain ≤ 2 * s.accepted.length := by
  have hlen := h.length_eq
  simp only [State.stepsToDrain]
  omega

/-- Settles O54: while the host waits, each step performs the oldest request or takes its response, so the steps that
are left go down to the answer. -/
theorem waitingForAnAcceptedResponseEnds : Obligations.WaitingForAnAcceptedResponseEnds := by
  intro s a es h hsch ha
  obtain ⟨k, hk, hrun⟩ := run_of_waiting h hsch ha
  exact ⟨k, hk.trans (Nat.succ_le_succ h.inOrder.stepsToDrain_le), hrun⟩

end Sys2Proof.Machine
end

/-! SUPPORT. Rounds of events that bring out a response (R25, R30, R104). -/

section
namespace Sys2Proof.Machine

/-- The state once the oldest request `v` has been performed and its response taken. -/
def State.answerOldest (s : State) (v : ReqV) (rest : List ReqV) : State :=
  ((s.withInflight rest).present (respond v)).deliver (respond v)

/-- A round of perform and take answers the oldest request. -/
theorem run_perform_take {s : State} {v : ReqV} {rest : List ReqV} {es : List Event} (hfree : s.response = none)
    (hq : s.inflight = v :: rest) (hsch : s.schedule = .perform :: .take :: es) (k : Nat) :
    Sys2Proof.core.run (k + 2) s = Sys2Proof.core.run k ((s.withSchedule es).answerOldest v rest) := by
  have hperform : step s = .next (((s.withSchedule (.take :: es)).withInflight rest).present (respond v)) :=
    (step_of_perform hsch).trans (performOldest_presents hfree hq)
  rw [run_of_step hperform]
  exact run_of_step ((step_of_take rfl).trans (takeResponse_of_presented rfl))

/-- Settles O51, by induction on the queue: each round answers its oldest request. -/
theorem everyAcceptedRequestIsAnswered : Obligations.EveryAcceptedRequestIsAnswered := by
  intro s hfree hsch
  induction hq : s.inflight generalizing s with
  | nil => exact ⟨s, rfl, hq, hfree, by simpa [hq] using hsch, rfl, by simp⟩
  | cons v rest ih =>
    let es := (List.replicate rest.length [Event.perform, .take]).flatten
    have hround : s.schedule = .perform :: .take :: es := by simpa [hq, List.replicate_succ] using hsch
    obtain ⟨t, hrun, hti, htr, hts, hta, htt⟩ := ih ((s.withSchedule es).answerOldest v rest) rfl rfl rfl
    refine ⟨t, (run_perform_take hfree hq hround _).trans hrun, hti, htr, hts, hta, ?_⟩
    simp [htt, State.answerOldest]

/-- The state once the request `d` has been presented, accepted, performed and taken. -/
def State.answerDriven (s : State) (d : Drive) : State :=
  ((s.withRequest (some d)).enqueue d).answerOldest d.wires []

/-- From an idle state a round of drive, accept, perform and take answers the driven request (R30). -/
theorem run_drive_accept_perform_take {s : State} {d : Drive} {es : List Event} (hd : d.keepsDuty = true)
    (hq : s.inflight = []) (hfree : s.response = none) (hreq : s.request = none)
    (hsch : s.schedule = .drive (some d) :: .accept :: .perform :: .take :: es) (k : Nat) :
    Sys2Proof.core.run (k + 4) s = Sys2Proof.core.run k ((s.withSchedule es).answerDriven d) := by
  let driven := (s.withSchedule (.accept :: .perform :: .take :: es)).withRequest (some d)
  have hdrive : step s = .next driven := (step_of_drive hsch).trans (hostDrive_of_free hreq hd)
  let ready := driven.withSchedule (.perform :: .take :: es)
  have hslot : ready.slotsUsed < Config.maxInflight := by
    simp [ready, driven, State.slotsUsed, hq, hfree, Config.maxInflight]
  have haccept : step driven = .next (ready.enqueue d) := (step_of_accept rfl).trans (acceptRequest_of_slot rfl hslot)
  have holdest : (ready.enqueue d).inflight = [d.wires] := by simp [ready, driven, hq]
  rw [run_of_step hdrive, run_of_step haccept]
  exact run_perform_take (s := ready.enqueue d) hfree holdest rfl k

/-- Settles O52, by induction on the driven requests: each round answers one and leaves the state idle. -/
theorem queueAgreesWithAtomicReading : Obligations.QueueAgreesWithAtomicReading := by
  intro s ds hds hq hfree hreq hsch
  induction ds generalizing s with
  | nil =>
    rw [List.map_nil, List.flatten_nil] at hsch
    simp [run_zero, ← hsch]
  | cons d ds ih =>
    obtain ⟨hd, hds⟩ := List.forall_mem_cons.mp hds
    rw [show 4 * (d :: ds).length = 4 * ds.length + 4 from rfl,
      run_drive_accept_perform_take hd hq hfree hreq hsch, ih _ hds rfl rfl rfl rfl]
    simp [State.answerDriven, State.answerOldest, hq, hfree, hreq, Bool.or_assoc, Nat.add_assoc, Nat.add_comm 1]

end Sys2Proof.Machine
end

/-! SUPPORT. The status flags of each kind of response (10_state.md R23, R24; 60_exceptions.md R87). -/

section
namespace Sys2Proof.Machine

@[simp] theorem bitlenZ_iff (n : Word) : bitlenZ n = true ↔ n = 0 := by
  simp [bitlenZ, bitlenOperand, u32, ← BitVec.toNat_inj]

theorem bitlenResponse_of_zero {n : Word} (h : n = 0) : bitlenResponse n = ⟨0xFFFFFFFF, true, false⟩ := by
  subst h; rfl

theorem bitlenResponse_of_ne_zero {n : Word} (h : n ≠ 0) : bitlenResponse n = ⟨word32 (hsb n), false, false⟩ :=
  if_neg (mt (bitlenZ_iff n).mp h)

section
variable {v : ReqV}

theorem decode_of_bitlen (h : reqOp v = 0b00#2) : decode v = .bitlen (opnd v 0) := by
  simp [decode, h]

theorem decode_of_pack (h : reqOp v = 0b01#2) :
    decode v = .pack (opnd v 0) (opnd v 1) (opnd v 2) (opnd v 3) := by
  simp [decode, h]

theorem decode_of_interp (h : reqOp v = 0b10#2) : decode v = .interp (opnd v 0) (opnd v 1) (opnd v 2) (opnd v 3)
    (opnd v 4) (opnd v 5) (opnd v 6) (opnd v 7) (opnd v 8) := by
  simp [decode, h]

theorem decode_of_rsv (h : reqOp v = 0b11#2) : decode v = .rsv := by
  simp [decode, h]

end

/-- Which kind of response a request has, by REQ_OP (30_encoding.md R49): BITLEN's, a normal result (PACK and INTERP),
or the reserved operation's. -/
theorem respond_cases (v : ReqV) :
    (reqOp v = 0b00#2 ∧ respond v = bitlenResponse (opnd v 0)) ∨
    ((reqOp v = 0b01#2 ∨ reqOp v = 0b10#2) ∧ ∃ res, respond v = ⟨res, false, false⟩) ∨
    (reqOp v = 0b11#2 ∧ respond v = ⟨0, false, true⟩) := by
  have hop : ∀ op : BitVec 2, op = 0b00#2 ∨ op = 0b01#2 ∨ op = 0b10#2 ∨ op = 0b11#2 := by decide
  rcases hop (reqOp v) with h | h | h | h
  · exact .inl ⟨h, congrArg respondInstr (decode_of_bitlen h)⟩
  · exact .inr (.inl ⟨.inl h, _, congrArg respondInstr (decode_of_pack h)⟩)
  · exact .inr (.inl ⟨.inr h, _, congrArg respondInstr (decode_of_interp h)⟩)
  · exact .inr (.inr ⟨h, congrArg respondInstr (decode_of_rsv h)⟩)

/-- Settles O27, by the kinds of response. -/
theorem statusFlagsSayZeroOrReserved : Obligations.StatusFlagsSayZeroOrReserved := by
  intro v
  rcases respond_cases v with ⟨hop, hv⟩ | ⟨hop, res, hv⟩ | ⟨hop, hv⟩
  · by_cases hn : opnd v 0 = 0
    · rw [hv, bitlenResponse_of_zero hn]
      simp [hop, hn]
    · rw [hv, bitlenResponse_of_ne_zero hn]
      simp [hop, show ¬ opnd v 0 = 0#32 from hn]
  · rcases hop with hop | hop <;> simp [hv, hop]
  · simp [hv, hop]

end Sys2Proof.Machine
end

/-! SUPPORT. The single steps of a run. -/

section
namespace Sys2Proof.Machine

/-- Settles O30: performing by the event, or by the block's own turn. -/
theorem stepPerformsTheOldestRequest : Obligations.StepPerformsTheOldestRequest := by
  intro s v rest es hfree hq hsch
  rcases hsch with hsch | ⟨hsch, rfl⟩
  · exact (step_of_perform hsch).trans (performOldest_eq_exec hfree hq)
  · rw [← hsch]
    exact (step_of_no_event hsch).trans ((blockTurn_eq_performOldest hfree hq).trans (performOldest_eq_exec hfree hq))

/-- Settles O32: acceptance is `enqueue`, and a drive that goes on is `withRequest` or changes nothing. -/
theorem acceptanceSamplesTheWholeRequest : Obligations.AcceptanceSamplesTheWholeRequest := by
  refine ⟨fun s d es hsch hd hslot => ?_, fun s t d es hsch ht => ?_⟩
  · exact (step_of_accept hsch).trans (acceptRequest_of_slot hd hslot)
  · rw [step_of_drive hsch] at ht
    rcases hostDrive_next ht with ⟨hreq, rfl, rfl⟩ | ⟨new, rfl, -, rfl⟩
    · rw [← hreq]; rfl
    · rfl

/-- Settles O33: performing finds the port held. -/
theorem performingWaitsForTheResponsePort : Obligations.PerformingWaitsForTheResponsePort :=
  fun _ _ _ hsch hr => (step_of_perform hsch).trans (performOldest_of_presented hr)

/-- Settles O40: a read needs a presented response, and then only records its field. -/
theorem responseIsReadOnlyWhilePresented : Obligations.ResponseIsReadOnlyWhilePresented := by
  intro s f es hsch
  refine ⟨fun hfree => (step_of_read hsch).trans (readField_of_free f hfree), fun r hr => ?_⟩
  rw [(step_of_read hsch).trans (readField_of_presented f hr)]
  cases f <;> rfl

theorem acceptRequest_response {s t : State} (h : acceptRequest s = .next t) : t.response = s.response := by
  rcases acceptRequest_next h with ⟨rfl, -⟩ | ⟨d, -, -, rfl⟩ <;> rfl

/-- On a free port the block's own turn presents a response only by performing. -/
theorem blockTurn_performs {s t : State} {r : Response} (h : blockTurn s = .next t) (hfree : s.response = none)
    (hr : t.response = some r) : performOldest s = .next t := by
  refine (blockTurn_next h).resolve_right fun ha => ?_
  simp [acceptRequest_response ha, hfree] at hr

/-- On a free port an event presents a response only by performing: as the perform event, or while the host waits. -/
theorem runEvent_performs {e : Event} {s t : State} {r : Response} (h : runEvent e s = .next t)
    (hfree : s.response = none) (hr : t.response = some r) :
    ∃ es, performOldest (s.withSchedule es) = .next t := by
  cases e with
  | perform => exact ⟨s.schedule, h⟩
  | awaitResponse n =>
    rcases awaitResponse_next h with ⟨rfl, -⟩ | ⟨-, r', hr', -⟩ | ⟨-, -, hb⟩
    · simp [hfree] at hr
    · simp [hfree] at hr'
    · exact ⟨_, blockTurn_performs hb hfree hr⟩
  | drive d =>
    rcases hostDrive_next h with ⟨-, -, rfl⟩ | ⟨new, -, -, rfl⟩ <;> simp [hfree] at hr
  | accept => simp [acceptRequest_response h, hfree] at hr
  | take =>
    rcases takeResponse_next h with ⟨rfl, -⟩ | ⟨r', -, rfl⟩
    · simp [hfree] at hr
    · simp at hr
  | read f =>
    obtain ⟨r', hr', -⟩ := readField_next h
    simp [hfree] at hr'
  | reset => cases h; simp at hr

/-- On a free port a step presents a response only by performing. -/
theorem step_performs {s t : State} {r : Response} (h : step s = .next t) (hfree : s.response = none)
    (hr : t.response = some r) : ∃ es, performOldest (s.withSchedule es) = .next t := by
  rcases step_next h with ⟨-, hb⟩ | ⟨e, es, -, he⟩
  · exact ⟨s.schedule, blockTurn_performs hb hfree hr⟩
  · exact runEvent_performs (s := s.withSchedule es) he hfree hr

/-- Settles O31: the step performed the oldest request, in whatever schedule. -/
theorem responsesDependOnTheirOwnRequest : Obligations.ResponsesDependOnTheirOwnRequest := by
  intro s t h hfree r hr
  obtain ⟨es, hp⟩ := step_performs h hfree hr
  rcases performOldest_next hp with ⟨rfl, -⟩ | ⟨v, rest, -, hq, rfl⟩
  · simp [hfree] at hr
  · exact ⟨v, rest, hq, by simpa using hr.symm, rfl⟩

end Sys2Proof.Machine
end

/-! SUPPORT. The ARGB word as a number (20_memory.md R34). -/

section
namespace Sys2Proof.Machine

/-- Appending is place value: the low part is below `2 ^ n`, so the two parts share no bit. -/
theorem toNat_append_eq_add {m n : Nat} (x : BitVec m) (y : BitVec n) :
    (x ++ y).toNat = x.toNat * 2 ^ n + y.toNat := by
  rw [BitVec.toNat_append, ← Nat.shiftLeft_add_eq_or_of_lt y.isLt, Nat.shiftLeft_eq]

theorem toNat_argb (a r g b : Byte) :
    (argb a r g b).toNat = a.toNat * 2 ^ 24 + r.toNat * 2 ^ 16 + g.toNat * 2 ^ 8 + b.toNat := by
  calc (argb a r g b).toNat
    _ = ((a.toNat * 2 ^ 8 + r.toNat) * 2 ^ 8 + g.toNat) * 2 ^ 8 + b.toNat := by
      simp only [argb, toNat_append_eq_add]
    _ = _ := by ring

/-- Settles O16: the sum by place value, and the four slices are the word's lanes 3 to 0. -/
theorem argbLanesBySignificance : Obligations.ArgbLanesBySignificance :=
  fun a r g b => ⟨toNat_argb a r g b, lanes_argb a r g b⟩

end Sys2Proof.Machine
end

/-! SUPPORT. Decoding and encoding as inverses: the operation code and the operand words of a decoded request
(30_encoding.md R47 to R51). -/

section
namespace Sys2Proof

/-- The operand words of an instruction, in the order of R50. -/
@[simp] def Instr.operands : Instr → List Word
  | .bitlen n => [n]
  | .pack a r g b => [a, r, g, b]
  | .interp sa sr sg sb ea er eg eb t => [sa, sr, sg, sb, ea, er, eg, eb, t]
  | .rsv => []

/-- No format reserves an operand pattern (R57). -/
theorem Instr.wellFormed_eq_true (i : Instr) : i.wellFormed = true := by
  cases i <;> rfl

theorem reqOp_encode (i : Instr) : reqOp (encode i) = i.opCode :=
  match i with
  | .bitlen n => Laws.OpCode.bitlen n
  | .pack a r g b => Laws.OpCode.pack a r g b
  | .interp sa sr sg sb ea er eg eb t => Laws.OpCode.interp sa sr sg sb ea er eg eb t
  | .rsv => Laws.OpCode.rsv

/-- The encoding holds the instruction's operands from `OPND[0]` upward, and zeros above them (R60). -/
theorem opnd_encode (i : Instr) {j : Nat} (hj : j < 9) : opnd (encode i) j = i.operands.getD j 0 := by
  cases i with
  | interp sa sr sg sb ea er eg eb t => exact opnd_mkReqV _ _ _ _ _ _ _ _ _ _ j hj
  | _ =>
    refine (opnd_mkReqV _ _ _ _ _ _ _ _ _ _ j hj).trans ?_
    interval_cases j <;> rfl

theorem reqOp_cases (v : ReqV) :
    reqOp v = 0b00#2 ∨ reqOp v = 0b01#2 ∨ reqOp v = 0b10#2 ∨ reqOp v = 0b11#2 := by
  have hop : ∀ op : BitVec 2, op = 0b00#2 ∨ op = 0b01#2 ∨ op = 0b10#2 ∨ op = 0b11#2 := by decide
  exact hop _

end Sys2Proof

namespace Sys2Proof.Machine

/-- An encoding's operation code chooses the decoder's arm, and the arm's operand slices are the instruction's own. -/
theorem decode_encode (i : Instr) : decode (encode i) = i := by
  have hop := reqOp_encode i
  cases i with
  | bitlen n => simp [decode_of_bitlen hop, opnd_encode]
  | pack a r g b => simp [decode_of_pack hop, opnd_encode]
  | interp sa sr sg sb ea er eg eb t => simp [decode_of_interp hop, opnd_encode]
  | rsv => exact decode_of_rsv hop

theorem opCode_decode (v : ReqV) : (decode v).opCode = reqOp v := by
  rcases reqOp_cases v with h | h | h | h
  · rw [decode_of_bitlen h, h]; rfl
  · rw [decode_of_pack h, h]; rfl
  · rw [decode_of_interp h, h]; rfl
  · rw [decode_of_rsv h, h]; rfl

theorem getD_map_range (f : Nat → Word) (n j : Nat) :
    ((List.range n).map f).getD j 0 = if j < n then f j else 0 := by
  by_cases h : j < n <;> simp [h]

/-- A decoded request keeps the operand words its format reads (R48), which are the first `n` words. -/
theorem operands_decode (v : ReqV) : ∃ n, (decode v).operands = (List.range n).map (opnd v) ∧
    ∀ j, readsOpnd (reqOp v) j = decide (j < n) := by
  rcases reqOp_cases v with h | h | h | h
  · exact ⟨1, congrArg Instr.operands (decode_of_bitlen h), by simp [readsOpnd, h]⟩
  · exact ⟨4, congrArg Instr.operands (decode_of_pack h), by simp [readsOpnd, h]⟩
  · exact ⟨9, congrArg Instr.operands (decode_of_interp h), by simp [readsOpnd, h]⟩
  · exact ⟨0, congrArg Instr.operands (decode_of_rsv h), by simp [readsOpnd, h]⟩

theorem operands_decode_getD (v : ReqV) (j : Nat) :
    (decode v).operands.getD j 0 = if readsOpnd (reqOp v) j then opnd v j else 0 := by
  obtain ⟨n, hoperands, hreads⟩ := operands_decode v
  rw [hoperands, getD_map_range, hreads]
  simp

/-- Settles O3: both directions by the fields of an encoding, operation code and operand words. -/
theorem decodeAndEncodeAgree : Obligations.DecodeAndEncodeAgree := by
  refine ⟨fun i => ⟨i.wellFormed_eq_true, decode_encode i⟩, fun v => ⟨?_, fun j hj => ?_⟩⟩
  · exact (reqOp_encode _).trans (opCode_decode v)
  · exact (opnd_encode _ hj).trans (operands_decode_getD v j)

/-- Settles O4: decoding reads REQ_OP and the words of its format, and the response is that of the decoded request. -/
theorem ignoredOperandWordsHaveNoEffect : Obligations.IgnoredOperandWordsHaveNoEffect := by
  refine ⟨fun v w hop hbitlen hpack hinterp => ?_, fun v => congrArg respondInstr (decode_encode _).symm⟩
  have hdecode : decode v = decode w := by
    rcases reqOp_cases v with h | h | h | h
    · rw [decode_of_bitlen h, decode_of_bitlen (hop ▸ h), hbitlen h]
    · simp [decode_of_pack h, decode_of_pack (hop ▸ h), hpack h]
    · simp [decode_of_interp h, decode_of_interp (hop ▸ h), hinterp h]
    · rw [decode_of_rsv h, decode_of_rsv (hop ▸ h)]
  exact ⟨hdecode, congrArg respondInstr hdecode⟩

/-- Settles O2: the slices of R47 are `reqOp` and `opnd`. -/
theorem requestOpChoosesTheOperation : Obligations.RequestOpChoosesTheOperation :=
  fun _ => ⟨decode_of_bitlen, decode_of_pack, decode_of_interp, decode_of_rsv⟩

end Sys2Proof.Machine
end

/-! SUPPORT. Performing a request placed for the next step, and performing RSV (30_encoding.md R56, R58). -/

section
namespace Sys2Proof.Machine

theorem decodeRaw_ok {w : Nat} {i : Instr} (h : decodeRaw w = .ok i) : i = decode (BitVec.ofNat 290 w) := by
  unfold decodeRaw at h
  split at h <;> cases h
  rfl

/-- The host's decoder, where it answers, decodes the request vector of the word's low bits. -/
theorem decodeTableWord_some {nbits w : Nat} {i : Instr} (h : decodeTableWord nbits w = some i) :
    i = decode (BitVec.ofNat 290 (w % 2 ^ nbits)) := by
  unfold decodeTableWord at h
  split at h
  · cases h
    exact decodeRaw_ok ‹_›
  · cases h

/-- Settles O34: the placed request is the oldest, the port is free, and the next event performs. -/
theorem placedRequestIsPerformedNext : Obligations.PlacedRequestIsPerformedNext := by
  intro s nbits w i h
  rw [decodeTableWord_some h]
  exact (step_of_perform rfl).trans (performOldest_eq_exec rfl rfl)

/-- Settles O26: RSV presents the reserved response. -/
theorem rsvReportsItselfAndNothingElse : Obligations.RsvReportsItselfAndNothingElse :=
  fun s => ⟨_, exec_eq .rsv s⟩

end Sys2Proof.Machine
end

/-! SUPPORT. The Q16.16 words (30_encoding.md R53, R54). -/

section
namespace Sys2Proof.Machine

theorem fx_eq (w : Word) : fx w = (w.toInt : Rat) / 2 ^ 16 := rfl

/-- Settles O5: the value by definition, and the twelve words by evaluating their signed integers. -/
theorem fixedPointWordsHaveTheirValues : Obligations.FixedPointWordsHaveTheirValues := by
  refine ⟨fx_eq, ?_, ?_, ?_, ?_, ?_, ?_, ?_, ?_, ?_, ?_, ?_, ?_⟩
  all_goals
    simp only [fx_eq, BitVec.ofNat_eq_ofNat, BitVec.reduceToInt]
    norm_num

end Sys2Proof.Machine
end

/-! SUPPORT. The operands of an assembler line and the words they stand for (30_encoding.md R60). -/

section
namespace Sys2Proof.Machine

theorem digitsOf_eq_true {base : Nat} {ds : List Nat} : digitsOf base ds = true ↔ ∀ d ∈ ds, d < base := by
  simp [digitsOf]

/-- The value of a digit string, most significant digit first, is Mathlib's `Nat.ofDigits` of the reversed string. -/
theorem digitsValue_eq_ofDigits (base : Nat) (ds : List Nat) :
    digitsValue base ds = Nat.ofDigits base ds.reverse := by
  simp [digitsValue, Nat.ofDigits_eq_foldr, List.foldr_reverse, Nat.add_comm, Nat.mul_comm]

theorem digitsValue_lt_pow_length {base : Nat} (hbase : 1 < base) {ds : List Nat} (hds : ∀ d ∈ ds, d < base) :
    digitsValue base ds < base ^ ds.length := by
  rw [digitsValue_eq_ofDigits, ← List.length_reverse]
  exact Nat.ofDigits_lt_base_pow_length hbase fun d hd => hds d (List.mem_reverse.mp hd)

theorem ofNat_eq_iff_toNat_eq {n : Nat} (hn : n < 2 ^ 32) (w : Word) : BitVec.ofNat 32 n = w ↔ w.toNat = n := by
  rw [← BitVec.toNat_inj, BitVec.toNat_ofNat, Nat.mod_eq_of_lt hn, eq_comm]

section
variable {m : Mnemonic} {w : Word}

theorem hex_word_eq_some {ds : List Nat} : (AsmOperand.hex ds).word m = some w ↔
    (ds ≠ [] ∧ ds.length ≤ 8 ∧ ∀ d ∈ ds, d < 16) ∧ BitVec.ofNat 32 (digitsValue 16 ds) = w := by
  simp [AsmOperand.word, AsmOperand.legal, digitsOf_eq_true, and_assoc]

theorem dec_word_eq_some {ds : List Nat} : (AsmOperand.dec ds).word m = some w ↔
    (m = .bitlen ∧ ds ≠ [] ∧ ∀ d ∈ ds, d < 10) ∧ digitsValue 10 ds < 2 ^ 32 ∧
      BitVec.ofNat 32 (digitsValue 10 ds) = w := by
  simp [AsmOperand.word, AsmOperand.legal, digitsOf_eq_true, and_assoc]

theorem fixed_word_eq_some {neg : Bool} {whole frac : List Nat} (hwhole : whole ≠ [])
    (hds : ∀ d ∈ whole ++ frac, d < 10) : (AsmOperand.fixed neg whole frac).word m = some w ↔
      fixedNumerator whole frac % 10 ^ frac.length = 0 ∧
      (-(2 ^ 31) ≤ fixedRaw neg whole frac ∧ fixedRaw neg whole frac ≤ 2 ^ 31 - 1) ∧
      BitVec.ofInt 32 (fixedRaw neg whole frac) = w := by
  obtain ⟨hw, hf⟩ := List.forall_mem_append.mp hds
  simp [AsmOperand.word, AsmOperand.legal, fixedLegal, hwhole, digitsOf_eq_true.mpr hw, digitsOf_eq_true.mpr hf,
    and_assoc]

end

/-- Settles O7: eight hexadecimal digits stay below 2^32, so a word's number is its digits' value. -/
theorem hexAndDecimalOperandsStandForTheirNumbers : Obligations.HexAndDecimalOperandsStandForTheirNumbers := by
  refine fun m ds w => ⟨?_, ?_⟩
  · rw [hex_word_eq_some, ← List.length_pos_iff]
    refine and_congr_right fun ⟨_, hlen, hds⟩ => ofNat_eq_iff_toNat_eq ?_ w
    calc digitsValue 16 ds
      _ < 16 ^ ds.length := digitsValue_lt_pow_length (by decide) hds
      _ ≤ 16 ^ 8 := Nat.pow_le_pow_right (by decide) hlen
      _ = 2 ^ 32 := by norm_num
  · rw [dec_word_eq_some]
    refine and_congr_right fun _ => ⟨fun ⟨hlt, hw⟩ => (ofNat_eq_iff_toNat_eq hlt w).mp hw, fun hw => ?_⟩
    have hlt : digitsValue 10 ds < 2 ^ 32 := hw ▸ w.isLt
    exact ⟨hlt, (ofNat_eq_iff_toNat_eq hlt w).mpr hw⟩

/-- A word of an integer in the signed range stands for that integer alone. -/
theorem ofInt_eq_iff_toInt_eq (r : Int) (w : Word) :
    ((-(2 ^ 31) ≤ r ∧ r ≤ 2 ^ 31 - 1) ∧ BitVec.ofInt 32 r = w) ↔ r = w.toInt := by
  constructor
  · rintro ⟨⟨hlo, hhi⟩, rfl⟩
    exact (BitVec.toInt_ofInt_eq_self (by decide) hlo (by omega)).symm
  · rintro rfl
    have hlo := w.le_toInt
    have hhi := w.toInt_lt
    exact ⟨⟨hlo, by omega⟩, BitVec.ofInt_toInt⟩

/-- A quotient of naturals is the integer `r` without remainder exactly when `r` times the divisor is the dividend. -/
theorem mod_eq_zero_and_div_eq_iff {n d : Nat} (hd : 0 < d) (r : Int) :
    (n % d = 0 ∧ ((n / d : Nat) : Int) = r) ↔ r * d = n := by
  constructor
  · rintro ⟨hmod, rfl⟩
    exact_mod_cast Nat.div_mul_cancel (Nat.dvd_of_mod_eq_zero hmod)
  · intro h
    have hdvd : d ∣ n := Int.natCast_dvd_natCast.mp ⟨r, by rw [← h, mul_comm]⟩
    refine ⟨Nat.mod_eq_zero_of_dvd hdvd, ?_⟩
    rw [Int.natCast_ediv, ← h, Int.mul_ediv_cancel r (by omega)]

/-- `v * 2^16` is the integer `r` exactly when the numerator divides evenly and `r` is the signed quotient. -/
theorem fixedRaw_eq_iff (neg : Bool) (whole frac : List Nat) (r : Int) :
    (fixedNumerator whole frac % 10 ^ frac.length = 0 ∧ fixedRaw neg whole frac = r) ↔
      r * 10 ^ frac.length = (if neg then -1 else 1) * (fixedNumerator whole frac : Int) := by
  have hquot := mod_eq_zero_and_div_eq_iff (n := fixedNumerator whole frac) (d := 10 ^ frac.length) (by positivity)
  cases neg with
  | false => simpa [fixedRaw] using hquot r
  | true => simpa [fixedRaw, neg_eq_iff_eq_neg] using hquot (-r)

/-- Settles O6: a legal constant's word is the signed quotient, which is exact. -/
theorem fixedConstantsAreExactOrRefused : Obligations.FixedConstantsAreExactOrRefused := by
  intro m neg whole frac hwhole hds w
  rw [fixed_word_eq_some hwhole hds, ofInt_eq_iff_toInt_eq, fixedRaw_eq_iff]
  simp [fixedNumerator]

end Sys2Proof.Machine
end

/-! SUPPORT. An assembled line is the encoding of its mnemonic's instruction (30_encoding.md R60). -/

section
namespace Sys2Proof.Machine

/-- The operation code of a mnemonic (R49). -/
def Mnemonic.opCode : Mnemonic → BitVec 2
  | .bitlen => 0b00#2
  | .pack => 0b01#2
  | .interp => 0b10#2
  | .rsv => 0b11#2

theorem assemble_some {l : AsmLine} {v : ReqV} (h : l.assemble = some v) :
    ∃ ws i, operandWords l.mnemonic l.operands = some ws ∧ instrOf l.mnemonic ws = some i ∧ encode i = v := by
  unfold AsmLine.assemble at h
  split at h
  · obtain ⟨i, hi, hv⟩ := Option.map_eq_some_iff.mp h
    exact ⟨_, i, ‹_›, hi, hv⟩
  · cases h

theorem instrOf_some {m : Mnemonic} {ws : List Word} {i : Instr} (h : instrOf m ws = some i) :
    i.opCode = m.opCode ∧ i.operands = (List.range m.arity).map fun k => ws.getD k 0 := by
  unfold instrOf at h
  rw [if_pos (instrOf_some_length h)] at h
  cases m <;> cases h <;> exact ⟨rfl, rfl⟩

/-- Settles O8: the line's instruction has the mnemonic's operation code and the line's words as its operands. -/
theorem assembledLinesEncodeTheirOperands : Obligations.AssembledLinesEncodeTheirOperands := by
  intro l v h
  obtain ⟨ws, i, hws, hi, rfl⟩ := assemble_some h
  obtain ⟨hop, hoperands⟩ := instrOf_some hi
  have hlen := instrOf_some_length hi
  have hfields : ∀ m, l.mnemonic = m → ws.length = m.arity ∧ reqOp (encode i) = m.opCode := by
    rintro _ rfl
    exact ⟨hlen, (reqOp_encode i).trans hop⟩
  refine ⟨ws, operandWords_some hws, fun j hj => ?_, hfields _, hfields _, hfields _, hfields _⟩
  rw [opnd_encode i hj, hoperands, getD_map_range, ← hlen]
  split
  · rfl
  · exact (List.getD_eq_default _ _ (by omega)).symm

end Sys2Proof.Machine
end

/-! SUPPORT. The numbers of zero bits (00_scope.md R16): a count of bits from one end reaches `k` exactly where the
first `k` bits are clear. -/

section
namespace Sys2Proof.Machine

theorem le_length_takeWhile_range_iff {p : Nat → Bool} {n k : Nat} (hk : k ≤ n) :
    k ≤ ((List.range n).takeWhile p).length ↔ ∀ j < k, p j = true := by
  rw [List.takeWhile_eq_take_findIdx_not, List.length_take, List.length_range, le_inf_iff]
  constructor
  · rintro ⟨hidx, -⟩ j hj
    simpa using List.not_of_lt_findIdx (hj.trans_le hidx)
  · intro h
    refine ⟨not_lt.mp fun hlt => ?_, hk⟩
    have hstop := List.findIdx_getElem (w := (hlt.trans_le hk).trans_eq List.length_range.symm)
    simp [h _ hlt] at hstop

theorem le_ctz32_iff {w : Word} {k : Nat} (hk : k ≤ 32) : k ≤ ctz32 w ↔ ∀ j < k, w.getLsbD j = false := by
  simp [ctz32, le_length_takeWhile_range_iff hk]

theorem le_clz32_iff {w : Word} {k : Nat} (hk : k ≤ 32) : k ≤ clz32 w ↔ ∀ j < k, w.getLsbD (31 - j) = false := by
  simp [clz32, le_length_takeWhile_range_iff hk]

end Sys2Proof.Machine
end

/-! SUPPORT. The highest set bit of a nonzero word: as the floor of its binary logarithm, and against the numbers of
zero bits (00_scope.md R16, 40_bitlength.md R64 to R66). -/

section
namespace Sys2Proof.Machine

section
variable {n : Word} {k : Nat}

theorem ne_zero_of_getLsbD (h : n.getLsbD k = true) : n ≠ 0 := by
  rintro rfl
  simp at h

theorem le_hsb (h : n.getLsbD k = true) : k ≤ hsb n := by
  obtain ⟨-, -, hclear⟩ := hsb_spec n (ne_zero_of_getLsbD h)
  exact not_lt.mp fun hlt => by simp [hclear k hlt] at h

theorem getLsbD_two_pow (hk : k < 32) (j : Nat) : (BitVec.ofNat 32 (2 ^ k)).getLsbD j = decide (k = j) := by
  rw [BitVec.getLsbD_ofNat, Nat.testBit_two_pow]
  by_cases h : k = j
  · subst h
    simp [hk]
  · simp [h]

theorem two_pow_ne_zero (hk : k < 32) : BitVec.ofNat 32 (2 ^ k) ≠ 0 :=
  ne_zero_of_getLsbD ((getLsbD_two_pow hk k).trans (decide_eq_true rfl))

theorem hsb_two_pow (hk : k < 32) : hsb (BitVec.ofNat 32 (2 ^ k)) = k := by
  obtain ⟨-, hset, -⟩ := hsb_spec _ (two_pow_ne_zero hk)
  rw [getLsbD_two_pow hk] at hset
  exact (of_decide_eq_true hset).symm

theorem ctz32_two_pow (hk : k < 32) : ctz32 (BitVec.ofNat 32 (2 ^ k)) = k := by
  refine le_antisymm (not_lt.mp fun hlt => ?_) ((le_ctz32_iff hk.le).mpr fun j hj => ?_)
  · have hclear := (le_ctz32_iff (by omega)).mp hlt k k.lt_succ_self
    rw [getLsbD_two_pow hk] at hclear
    exact of_decide_eq_false hclear rfl
  · exact (getLsbD_two_pow hk j).trans (decide_eq_false hj.ne')

end

section
variable {n : Word} (hn : n ≠ 0)
include hn

/-- The highest set bit brackets the word: the bit itself from below, the clear bits above it from above. -/
theorem two_pow_hsb_le_and_lt : 2 ^ hsb n ≤ n.toNat ∧ n.toNat < 2 ^ (hsb n + 1) := by
  obtain ⟨-, hset, hclear⟩ := hsb_spec n hn
  exact ⟨Nat.ge_two_pow_of_testBit hset, Nat.lt_pow_two_of_testBit _ hclear⟩

theorem hsb_eq_floor_logb : (hsb n : Int) = ⌊Real.logb 2 n.toNat⌋ := by
  have hlog : Nat.log 2 n.toNat = hsb n :=
    (Nat.log_eq_iff (.inr ⟨one_lt_two, (BitVec.toNat_ne_iff_ne (y := 0)).mpr hn⟩)).mpr (two_pow_hsb_le_and_lt hn)
  rw [← hlog, ← Int.log_natCast (R := ℝ)]
  exact (Real.floor_logb_natCast n.toNat.cast_nonneg).symm

/-- The highest set bit ends the run of leading zeros. -/
theorem clz32_eq : clz32 n = 31 - hsb n := by
  obtain ⟨hle, hset, hclear⟩ := hsb_spec n hn
  refine le_antisymm (not_lt.mp fun hlt => ?_) ((le_clz32_iff (by omega)).mpr fun j hj => hclear _ (by omega))
  have hunset := (le_clz32_iff (by omega)).mp hlt (31 - hsb n) (Nat.lt_succ_self _)
  rw [Nat.sub_sub_self hle, hset] at hunset
  contradiction

/-- A word with no bit set below its highest one is that power of two. -/
theorem toNat_eq_two_pow_hsb (hlow : ∀ j < hsb n, n.getLsbD j = false) : n.toNat = 2 ^ hsb n := by
  obtain ⟨-, hset, hclear⟩ := hsb_spec n hn
  refine Nat.eq_of_testBit_eq fun j => ?_
  rw [Nat.testBit_two_pow, BitVec.testBit_toNat]
  rcases lt_trichotomy j (hsb n) with h | rfl | h
  · simp [hlow j h, h.ne']
  · simp [hset]
  · simp [hclear j h, h.ne]

theorem ctz32_lt_hsb (hpow : ∀ k < 32, n.toNat ≠ 2 ^ k) : ctz32 n < hsb n := by
  obtain ⟨hle, -, -⟩ := hsb_spec n hn
  refine not_le.mp fun hge => hpow (hsb n) (by omega) ?_
  exact toNat_eq_two_pow_hsb hn ((le_ctz32_iff (by omega)).mp hge)

end

end Sys2Proof.Machine
end

/-! SUPPORT. BITLEN's response and effect (40_bitlength.md R63 to R69). -/

section
namespace Sys2Proof.Machine

theorem State.present_of_ill_false {r : Response} (h : r.ill = false) (s : State) :
    s.present r = { s with response := some r } := by
  simp [State.present, h]

theorem word32_natCast (k : Nat) : word32 k = BitVec.ofNat 32 k := BitVec.ofInt_natCast 32 k

theorem bitlenResponse_ill (n : Word) : (bitlenResponse n).ill = false := by
  by_cases h : n = 0
  · rw [bitlenResponse_of_zero h]
  · rw [bitlenResponse_of_ne_zero h]

/-- BITLEN completes and changes the response port alone: its response never has ILL (R24, R63). -/
theorem exec_bitlen (n : Word) (s : State) :
    exec (.bitlen n) s = .next { s with response := some (bitlenResponse n) } :=
  (exec_eq _ s).trans (congrArg _ (State.present_of_ill_false (bitlenResponse_ill n) s))

/-- The result word of a nonzero operand is the highest set bit as a signed integer too (R64). -/
theorem bitlen_res_toInt {n : Word} (hn : n ≠ 0) : (respondInstr (.bitlen n)).res.toInt = hsb n := by
  obtain ⟨hle, -, -⟩ := hsb_spec n hn
  rw [respondInstr, bitlenResponse_of_ne_zero hn]
  exact BitVec.toInt_ofInt_eq_self (by decide) (by omega) (by omega)

/-- Settles O9: the response is the sentinel's or that of `hsb`, and BITLEN only presents it. -/
theorem bitlenGivesTheHighestSetBit : Obligations.BitlenGivesTheHighestSetBit := by
  refine ⟨fun s => exec_bitlen 0 s, fun n s hn => ?_⟩
  obtain ⟨hle, hset, hclear⟩ := hsb_spec n hn
  refine ⟨hsb n, hle, hset, hclear, ?_⟩
  rw [exec_bitlen, bitlenResponse_of_ne_zero hn, word32_natCast]

/-- Settles O10: the result is the highest set bit, which brackets the operand. -/
theorem bitlenBracketsItsOperand : Obligations.BitlenBracketsItsOperand := by
  intro n hn
  rw [bitlen_res_toInt hn]
  exact ⟨Int.natCast_nonneg _, two_pow_hsb_le_and_lt hn⟩

/-- Settles O11: the three formulas agree at the highest set bit, and a result below 32 has five bits. -/
theorem bitlenIsFloorLog2 : Obligations.BitlenIsFloorLog2 := by
  intro n hn
  obtain ⟨hle, -, -⟩ := hsb_spec n hn
  have hclz := clz32_eq hn
  have htop : (respondInstr (.bitlen n)).res.extractLsb' 5 27 = 0 := by
    rw [respondInstr, bitlenResponse_of_ne_zero hn, word32_natCast]
    apply BitVec.eq_of_toNat_eq
    simp [BitVec.extractLsb'_toNat, Nat.shiftRight_eq_div_pow]
    omega
  rw [bitlen_res_toInt hn]
  exact ⟨hsb_eq_floor_logb hn, by omega, by omega, by omega, htop⟩

/-- Settles O12: on a power of two both counts give its one set bit; elsewhere a lower bit is set. -/
theorem bitlenIsNotTrailingZeroCount : Obligations.BitlenIsNotTrailingZeroCount := by
  refine ⟨fun k hk => ⟨?_, ctz32_two_pow hk⟩, fun n hn hpow => ?_⟩
  · rw [respondInstr, bitlenResponse_of_ne_zero (two_pow_ne_zero hk), hsb_two_pow hk, word32_natCast]
  · rw [bitlen_res_toInt hn]
    exact_mod_cast ctz32_lt_hsb hn hpow

/-- Settles O13: the sentinel is -1 as a signed integer, and elsewhere the result is the floor of the logarithm. -/
theorem bitlenPlusOneIsOneBased : Obligations.BitlenPlusOneIsOneBased := by
  refine ⟨by decide, fun n hn => ?_⟩
  have hne : n ≠ 0 := by
    rintro rfl
    simp at hn
  rw [bitlen_res_toInt hne, hsb_eq_floor_logb hne]

/-- Settles O14: bit 31 is then the highest set bit. -/
theorem bitlenTakesTopBitAsUnsigned : Obligations.BitlenTakesTopBitAsUnsigned := by
  intro n h31
  have hn := ne_zero_of_getLsbD h31
  obtain ⟨hle, -, -⟩ := hsb_spec n hn
  have hhsb : hsb n = 31 := le_antisymm hle (le_hsb h31)
  refine ⟨Nat.ge_two_pow_of_testBit h31, ?_⟩
  rw [respondInstr, bitlenResponse_of_ne_zero hn, hhsb]
  rfl

/-- Settles O29: in either state the response presented is the instruction's own. -/
theorem sameRequestSameResponse : Obligations.SameRequestSameResponse :=
  fun i s s' => ⟨_, _, exec_eq i s, exec_eq i s', rfl⟩

end Sys2Proof.Machine
end

/-! SUPPORT. Lane arithmetic: the toward-zero quotient of an exact channel value, and its value on the nominal interval
(41_color.md R71, R72). -/

section
namespace Sys2Proof.Machine

theorem lane8_toNat_eq_tdiv (p : Int) (k : Nat) : ((lane8 p k).toNat : Int) = Int.tdiv (255 * p) (2 ^ k) % 256 := by
  rw [lane8_toNat, scaled, trunc0_eq_tdiv, Config.scale]

/-- Settles O15: `trunc0` is the toward-zero quotient, and a lane is its remainder. -/
theorem laneIsTruncatedTowardZeroAndWrapped : Obligations.LaneIsTruncatedTowardZeroAndWrapped :=
  fun p k => ⟨trunc0_eq_tdiv _ k, lane8_toNat_eq_tdiv p k⟩

/-- A finer unit of the same channel value gives the same lane. -/
theorem lane8_mul_two_pow (p : Int) (j k : Nat) : lane8 (p * 2 ^ j) (k + j) = lane8 p k := by
  have hquot : scaled (p * 2 ^ j) (k + j) = scaled p k := by
    rw [scaled, scaled, trunc0_eq_tdiv, trunc0_eq_tdiv, pow_add, ← mul_assoc,
      Int.mul_tdiv_mul_of_pos_left _ _ (by positivity)]
  rw [lane8, lane8, hquot]

section
variable {p : Int} {k : Nat}

/-- From 0 up, rounding toward zero is the floor of the exact rational. -/
theorem tdiv_eq_floor (h0 : 0 ≤ p) : Int.tdiv (255 * p) (2 ^ k) = ⌊255 * ((p : Rat) / 2 ^ k)⌋ := by
  have hfloor := Rat.floor_intCast_div_natCast (255 * p) (2 ^ k)
  push_cast at hfloor
  rw [Int.tdiv_eq_ediv_of_nonneg (by omega), ← mul_div_assoc, hfloor]

/-- A channel value in [0, 1] is scaled to a floor from 0 to 255, so its lane does not wrap. -/
theorem lane8_eq_floor_of_nominal (h0 : 0 ≤ p) (h1 : p ≤ 2 ^ k) :
    ((lane8 p k).toNat : Int) = ⌊255 * ((p : Rat) / 2 ^ k)⌋ ∧
    0 ≤ ⌊255 * ((p : Rat) / 2 ^ k)⌋ ∧ ⌊255 * ((p : Rat) / 2 ^ k)⌋ ≤ 255 := by
  have hlo : 0 ≤ Int.tdiv (255 * p) (2 ^ k) := Int.tdiv_nonneg (by omega) (by positivity)
  have hhi : Int.tdiv (255 * p) (2 ^ k) ≤ 255 := by
    rw [Int.tdiv_eq_ediv_of_nonneg (by omega)]
    exact Int.ediv_le_of_le_mul (by positivity) (by omega)
  rw [lane8_toNat_eq_tdiv, ← tdiv_eq_floor h0]
  exact ⟨Int.emod_eq_of_lt hlo (by omega), hlo, hhi⟩

end

theorem abs_floor_sub_round_le_one (x : Rat) : |⌊x⌋ - round x| ≤ 1 := by
  have hle := Int.ceil_le_floor_add_one x
  have hge := Int.floor_le_ceil x
  rw [abs_le, round]
  split <;> constructor <;> omega

end Sys2Proof.Machine
end

/-! SUPPORT. PACK's response and effect (41_color.md R73 to R75). -/

section
namespace Sys2Proof.Machine

section
variable (a r g b : Word)

theorem lanes_pack :
    lane (respondInstr (.pack a r g b)).res 3 = packLane a ∧ lane (respondInstr (.pack a r g b)).res 2 = packLane r ∧
    lane (respondInstr (.pack a r g b)).res 1 = packLane g ∧ lane (respondInstr (.pack a r g b)).res 0 = packLane b :=
  lanes_argb ..

/-- PACK completes and changes the response port alone: a normal response never has ILL (R73, R87). -/
theorem exec_pack (s : State) :
    exec (.pack a r g b) s = .next { s with response := some (respondInstr (.pack a r g b)) } :=
  (exec_eq _ s).trans (congrArg _ (State.present_of_ill_false rfl s))

end

theorem toNat_of_eq_packLane {x : Byte} {c : Word} (h : x = packLane c) :
    (x.toNat : Int) = Int.tdiv (255 * c.toInt) (2 ^ 16) % 256 := by
  subst h
  exact lane8_toNat_eq_tdiv ..

theorem lane_pack_of_mem {a r g b c : Word} {k : Nat} (hk : (k, c) ∈ [(3, a), (2, r), (1, g), (0, b)]) :
    lane (respondInstr (.pack a r g b)).res k = packLane c := by
  obtain ⟨ha, hr, hg, hb⟩ := lanes_pack a r g b
  simp only [List.mem_cons, Prod.mk.injEq, List.not_mem_nil, or_false] at hk
  obtain ⟨rfl, rfl⟩ | ⟨rfl, rfl⟩ | ⟨rfl, rfl⟩ | ⟨rfl, rfl⟩ := hk
  · exact ha
  · exact hr
  · exact hg
  · exact hb

/-- Settles O17: PACK only presents its response, and each lane is its channel's. -/
theorem packScalesAndPacksFourChannels : Obligations.PackScalesAndPacksFourChannels := by
  intro a r g b s
  obtain ⟨ha, hr, hg, hb⟩ := lanes_pack a r g b
  exact ⟨_, exec_pack a r g b s, toNat_of_eq_packLane ha, toNat_of_eq_packLane hr, toNat_of_eq_packLane hg,
    toNat_of_eq_packLane hb⟩

/-- Settles O18: the lane is its channel's, which on [0.0, 1.0] is the floor. -/
theorem packNominalLaneIsFloor : Obligations.PackNominalLaneIsFloor := by
  intro a r g b c k hk h0 h1
  have hnominal : ((packLane c).toNat : Int) = ⌊255 * fx c⌋ ∧ 0 ≤ ⌊255 * fx c⌋ ∧ ⌊255 * fx c⌋ ≤ 255 :=
    lane8_eq_floor_of_nominal (k := 16) h0 h1
  obtain ⟨hlane, hlo, hhi⟩ := hnominal
  rw [lane_pack_of_mem hk, hlane]
  exact ⟨rfl, hlo, hhi, abs_floor_sub_round_le_one _⟩

end Sys2Proof.Machine
end

/-! SUPPORT. INTERP's response and effect (41_color.md R76 to R83). -/

section
namespace Sys2Proof.Machine

section
variable (sa sr sg sb ea er eg eb t : Word)

theorem lanes_interp :
    lane (respondInstr (.interp sa sr sg sb ea er eg eb t)).res 3 = interpLane sa ea t ∧
    lane (respondInstr (.interp sa sr sg sb ea er eg eb t)).res 2 = interpLane sr er t ∧
    lane (respondInstr (.interp sa sr sg sb ea er eg eb t)).res 1 = interpLane sg eg t ∧
    lane (respondInstr (.interp sa sr sg sb ea er eg eb t)).res 0 = interpLane sb eb t :=
  lanes_argb ..

/-- INTERP completes and changes the response port alone: a normal response never has ILL (R76, R87). -/
theorem exec_interp (s : State) : exec (.interp sa sr sg sb ea er eg eb t) s
    = .next { s with response := some (respondInstr (.interp sa sr sg sb ea er eg eb t)) } :=
  (exec_eq _ s).trans (congrArg _ (State.present_of_ill_false rfl s))

end

section
variable (s e t : Word)

theorem interpExact_eq : interpExact s e t = s.toInt * 2 ^ 16 + (e.toInt - s.toInt) * t.toInt := rfl

/-- The exact intermediate stands for the blend of the rationals, in units of 2^-32 (R76). -/
theorem interpExact_div : (interpExact s e t : Rat) / 2 ^ 32 = fx s + (fx e - fx s) * fx t := by
  rw [interpExact_eq, fx_eq, fx_eq, fx_eq]
  push_cast
  ring

end

theorem toNat_of_eq_interpLane {x : Byte} {s e t : Word} (h : x = interpLane s e t) : (x.toNat : Int)
    = Int.tdiv (255 * (s.toInt * 2 ^ 16 + (e.toInt - s.toInt) * t.toInt)) (2 ^ 32) % 256 := by
  subst h
  exact lane8_toNat_eq_tdiv ..

/-- Settles O19: INTERP only presents its response, and each lane is its channel's blend. -/
theorem interpBlendsAndPacksFourChannels : Obligations.InterpBlendsAndPacksFourChannels := by
  intro sa sr sg sb ea er eg eb t s
  obtain ⟨ha, hr, hg, hb⟩ := lanes_interp sa sr sg sb ea er eg eb t
  exact ⟨_, exec_interp sa sr sg sb ea er eg eb t s, toNat_of_eq_interpLane ha, toNat_of_eq_interpLane hr,
    toNat_of_eq_interpLane hg, toNat_of_eq_interpLane hb⟩

/-- Where the exact intermediate is a channel's value in finer units, the lane is that channel's PACK lane (R77). -/
theorem interpLane_eq_packLane {s e t c : Word} (h : interpExact s e t = c.toInt * 2 ^ 16) :
    interpLane s e t = packLane c := by
  rw [interpLane, h]
  exact lane8_mul_two_pow c.toInt 16 16

theorem interpLane_zero (s e : Word) : interpLane s e 0x00000000 = packLane s :=
  interpLane_eq_packLane (by simp [interpExact_eq])

theorem interpLane_one (s e : Word) : interpLane s e 0x00010000 = packLane e := by
  have hone : (0x00010000 : Word).toInt = 2 ^ 16 := by decide
  refine interpLane_eq_packLane ?_
  rw [interpExact_eq, hone]
  ring

theorem interpLane_self (c t : Word) : interpLane c c t = packLane c :=
  interpLane_eq_packLane (by simp [interpExact_eq])

/-- Settles O20: in each of the three cases every lane is PACK's. -/
theorem interpEndpointsArePack : Obligations.InterpEndpointsArePack := by
  refine ⟨fun sa sr sg sb ea er eg eb => ⟨?_, ?_⟩, fun a r g b t => ?_⟩
  · simp only [respondInstr, interpResponse, packResponse, interpLane_zero]
  · simp only [respondInstr, interpResponse, packResponse, interpLane_one]
  · simp only [respondInstr, interpResponse, packResponse, interpLane_self]

/-- A blend of two channels in [0, 1] by a factor in [0, 1] is a convex combination, so it lies in [0, 1]. -/
theorem interpExact_of_nominal {s e t : Word} (hs : 0 ≤ s.toInt ∧ s.toInt ≤ 65536) (he : 0 ≤ e.toInt ∧ e.toInt ≤ 65536)
    (ht : 0 ≤ t.toInt ∧ t.toInt ≤ 65536) : 0 ≤ interpExact s e t ∧ interpExact s e t ≤ 2 ^ 32 := by
  obtain ⟨hs0, hs1⟩ := hs
  obtain ⟨he0, he1⟩ := he
  obtain ⟨ht0, ht1⟩ := ht
  have hconvex : interpExact s e t = s.toInt * (65536 - t.toInt) + e.toInt * t.toInt := by
    rw [interpExact_eq]
    ring
  have hs_lo : 0 ≤ s.toInt * (65536 - t.toInt) := mul_nonneg hs0 (by omega)
  have hs_hi : s.toInt * (65536 - t.toInt) ≤ 65536 * (65536 - t.toInt) := mul_le_mul_of_nonneg_right hs1 (by omega)
  have he_lo : 0 ≤ e.toInt * t.toInt := mul_nonneg he0 ht0
  have he_hi : e.toInt * t.toInt ≤ 65536 * t.toInt := mul_le_mul_of_nonneg_right he1 ht0
  rw [hconvex]
  constructor <;> omega

theorem interpLane_eq_floor_of_nominal {s e t : Word} (h : 0 ≤ interpExact s e t ∧ interpExact s e t ≤ 2 ^ 32) :
    ((interpLane s e t).toNat : Int) = ⌊255 * (fx s + (fx e - fx s) * fx t)⌋ ∧
    ⌊255 * (fx s + (fx e - fx s) * fx t)⌋ ≤ 255 := by
  obtain ⟨hlane, -, hhi⟩ := lane8_eq_floor_of_nominal (k := 32) h.1 h.2
  rw [interpExact_div] at hlane hhi
  exact ⟨hlane, hhi⟩

/-- Settles O21: the lane is the blend's of its start and end word, and a convex combination does not wrap. -/
theorem interpNominalLaneIsFloor : Obligations.InterpNominalLaneIsFloor := by
  intro sa sr sg sb ea er eg eb t c d k hnominal hk
  obtain ⟨ha, hr, hg, hb⟩ := lanes_interp sa sr sg sb ea er eg eb t
  have hchannel : c ∈ [sa, sr, sg, sb, ea, er, eg, eb, t] ∧ d ∈ [sa, sr, sg, sb, ea, er, eg, eb, t] ∧
      lane (respondInstr (.interp sa sr sg sb ea er eg eb t)).res k = interpLane c d t := by
    simp only [List.mem_cons, Prod.mk.injEq, List.not_mem_nil, or_false] at hk
    obtain ⟨rfl, rfl, rfl⟩ | ⟨rfl, rfl, rfl⟩ | ⟨rfl, rfl, rfl⟩ | ⟨rfl, rfl, rfl⟩ := hk
    · exact ⟨by simp, by simp, ha⟩
    · exact ⟨by simp, by simp, hr⟩
    · exact ⟨by simp, by simp, hg⟩
    · exact ⟨by simp, by simp, hb⟩
  obtain ⟨hc, hd, hlane⟩ := hchannel
  have hexact := interpExact_of_nominal (hnominal c hc) (hnominal d hd) (hnominal t (by simp))
  obtain ⟨hfloor, hhi⟩ := interpLane_eq_floor_of_nominal hexact
  rw [hlane]
  refine ⟨hfloor, ?_, ?_, hhi⟩
  · rw [← interpExact_div]
    exact div_nonneg (by exact_mod_cast hexact.1) (by positivity)
  · rw [← interpExact_div]
    exact div_le_one_of_le₀ (by exact_mod_cast hexact.2) (by positivity)

theorem abs_toInt_le (w : Word) : |w.toInt| ≤ 2 ^ 31 := by
  have hlo := w.le_toInt
  have hhi := w.toInt_lt
  rw [abs_le]
  constructor <;> omega

theorem abs_toInt_sub_lt (e s : Word) : |e.toInt - s.toInt| < 2 ^ 32 := by
  have helo := e.le_toInt
  have hehi := e.toInt_lt
  have hslo := s.le_toInt
  have hshi := s.toInt_lt
  rw [abs_lt]
  constructor <;> omega

/-- Settles O22: the product's bound from its factors', then the sum's and the scaled sum's. -/
theorem interpIntermediatesAreBounded : Obligations.InterpIntermediatesAreBounded := by
  intro s e t
  have hprod : |(e.toInt - s.toInt) * t.toInt| < 2 ^ 63 := by
    rw [abs_mul]
    calc |e.toInt - s.toInt| * |t.toInt|
      _ ≤ |e.toInt - s.toInt| * 2 ^ 31 := mul_le_mul_of_nonneg_left (abs_toInt_le t) (abs_nonneg _)
      _ < 2 ^ 32 * 2 ^ 31 := mul_lt_mul_of_pos_right (abs_toInt_sub_lt e s) (by norm_num)
      _ = 2 ^ 63 := by norm_num
  have hstart : |s.toInt * 2 ^ 16| ≤ 2 ^ 47 := by
    rw [abs_mul]
    exact mul_le_mul_of_nonneg_right (abs_toInt_le s) (by norm_num)
  have hsum : |interpExact s e t| < 2 ^ 64 := by
    have htri := abs_add_le (s.toInt * 2 ^ 16) ((e.toInt - s.toInt) * t.toInt)
    rw [interpExact_eq]
    omega
  refine ⟨hprod, hstart, hsum, ?_⟩
  rw [abs_mul, show |(255 : Int)| = 255 from rfl]
  omega

/-- Settles O25: each lane is a function of its own channel's words (and `t`). -/
theorem lanesDependOnTheirOwnChannel : Obligations.LanesDependOnTheirOwnChannel := by
  constructor
  · intro a r g b a' r' g' b'
    simp only [lanes_pack]
    exact ⟨congrArg _, congrArg _, congrArg _, congrArg _⟩
  · intro sa sr sg sb ea er eg eb sa' sr' sg' sb' ea' er' eg' eb' t
    have hcongr : ∀ {s s' e e' : Word}, s = s' → e = e' → interpLane s e t = interpLane s' e' t :=
      fun hs he => by rw [hs, he]
    simp only [lanes_interp]
    exact ⟨hcongr, hcongr, hcongr, hcongr⟩

/-- Settles O23, by evaluating both readings of the example. -/
theorem interpRoundsOnce : Obligations.InterpRoundsOnce := by
  constructor <;> decide

/-- Settles O24, by evaluating the example. -/
theorem interpExtrapolatesWithLaneWrap : Obligations.InterpExtrapolatesWithLaneWrap := by
  unfold Obligations.InterpExtrapolatesWithLaneWrap
  decide

end Sys2Proof.Machine
end

/-! SUPPORT. Which events always answer next, and which can fault (60_exceptions.md R84, 70_reset_and_hazards.md R110). -/

section
namespace Sys2Proof.Machine

theorem acceptRequest_isNext (s : State) : ∃ t, acceptRequest s = .next t := by
  unfold acceptRequest
  split
  · exact ⟨_, rfl⟩
  · split <;> exact ⟨_, rfl⟩

theorem performOldest_isNext (s : State) : ∃ t, performOldest s = .next t := by
  unfold performOldest
  split
  · exact ⟨_, exec_eq ..⟩
  · exact ⟨_, rfl⟩
  · exact ⟨_, rfl⟩

theorem takeResponse_isNext (s : State) : ∃ t, takeResponse s = .next t := by
  unfold takeResponse
  split <;> exact ⟨_, rfl⟩

/-- A waiting host never stops the run: what is left to do is the block's own turn (R99). -/
theorem awaitResponse_isNext (n : Nat) (s : State) : ∃ t, awaitResponse n s = .next t := by
  cases hans : s.answered n with
  | true => exact ⟨_, awaitResponse_of_answered hans⟩
  | false =>
    cases hr : s.response with
    | some r => exact ⟨_, awaitResponse_of_presented hans hr⟩
    | none =>
      rw [awaitResponse_of_free hans hr]
      exact blockTurn_isNext _

theorem hostDrive_isNext_or_isFault (d : Option Drive) (s : State) :
    (∃ t, hostDrive d s = .next t) ∨ ∃ f, hostDrive d s = .fault f := by
  unfold hostDrive
  split
  · exact .inl ⟨_, rfl⟩
  · split
    · exact .inl ⟨_, rfl⟩
    · exact .inr ⟨_, rfl⟩
  · exact .inr ⟨_, rfl⟩
  · split
    · exact .inr ⟨_, rfl⟩
    · split
      · exact .inr ⟨_, rfl⟩
      · split
        · exact .inl ⟨_, rfl⟩
        · exact .inr ⟨_, rfl⟩

theorem readField_isNext_or_isFault (f : RespField) (s : State) :
    (∃ t, readField f s = .next t) ∨ ∃ r, readField f s = .fault r := by
  cases hr : s.response with
  | some r => exact .inl ⟨_, readField_of_presented f hr⟩
  | none => exact .inr ⟨_, readField_of_free f hr⟩

/-- No event is refused, and an event that faults is the host's: a drive or a read. -/
theorem runEvent_isNext_or_hostFault (e : Event) (s : State) : (∃ t, runEvent e s = .next t) ∨
    ∃ f, runEvent e s = .fault f ∧ ((∃ d, e = .drive d) ∨ ∃ g, e = .read g) := by
  cases e with
  | drive d => exact (hostDrive_isNext_or_isFault d s).imp_right fun ⟨f, hf⟩ => ⟨f, hf, .inl ⟨d, rfl⟩⟩
  | accept => exact .inl (acceptRequest_isNext s)
  | perform => exact .inl (performOldest_isNext s)
  | take => exact .inl (takeResponse_isNext s)
  | awaitResponse n => exact .inl (awaitResponse_isNext n s)
  | read g => exact (readField_isNext_or_isFault g s).imp_right fun ⟨f, hf⟩ => ⟨f, hf, .inr ⟨g, rfl⟩⟩
  | reset => exact .inl ⟨_, rfl⟩

/-- Settles O45: a step is the block's own turn, which answers next, or an event, of which only the host's can fault. -/
theorem onlyTheHostCanStopARun : Obligations.OnlyTheHostCanStopARun := by
  intro s
  cases hsch : s.schedule with
  | nil =>
    rw [step_of_no_event hsch]
    exact .inl (blockTurn_isNext s)
  | cons e es =>
    rw [step_of_event hsch]
    rcases runEvent_isNext_or_hostFault e (s.withSchedule es) with hnext | ⟨f, hf, ⟨d, rfl⟩ | ⟨g, rfl⟩⟩
    · exact .inl hnext
    · exact .inr ⟨f, es, hf, .inl ⟨d, rfl⟩⟩
    · exact .inr ⟨f, es, hf, .inr ⟨g, rfl⟩⟩

/-- Settles O28: `State.present` writes the response port and the record of ILL = 1 (93 I5), and nothing else. -/
theorem everyInstructionPresentsItsResponse : Obligations.EveryInstructionPresentsItsResponse :=
  exec_eq

end Sys2Proof.Machine
end

/-! SUPPORT. The host's drivers on the request port (70_reset_and_hazards.md R103): what a request must drive, and when
two vectors are the same request. -/

section
namespace Sys2Proof.Machine

/-- What holds of every operand word an operation reads, by the formats of R48. -/
theorem forall_readsOpnd_iff (op : BitVec 2) (P : Nat → Prop) : (∀ i < 9, readsOpnd op i = true → P i) ↔
    (op = 0b00#2 → P 0) ∧ (op = 0b01#2 → ∀ j < 4, P j) ∧ (op = 0b10#2 → ∀ j < 9, P j) := by
  have hop : op = 0b00#2 ∨ op = 0b01#2 ∨ op = 0b10#2 ∨ op = 0b11#2 := by revert op; decide
  rcases hop with rfl | rfl | rfl | rfl
  · have hreads : ∀ i, readsOpnd 0b00#2 i = true ↔ i = 0 := by simp [readsOpnd]
    exact ⟨fun h => ⟨fun _ => h 0 (by omega) rfl, nofun, nofun⟩, fun ⟨hword, _⟩ i _ hi => (hreads i).mp hi ▸ hword rfl⟩
  · have hreads : ∀ i, readsOpnd 0b01#2 i = true ↔ i < 4 := by simp [readsOpnd]
    exact ⟨fun h => ⟨nofun, fun _ i hi => h i (by omega) ((hreads i).mpr hi), nofun⟩,
      fun ⟨_, hwords, _⟩ i _ hi => hwords rfl i ((hreads i).mp hi)⟩
  · simp [readsOpnd]
  · simp [readsOpnd]

theorem keepsDuty_iff (d : Drive) : d.keepsDuty = true ↔
    d.opDriven = true ∧ ∀ i < 9, readsOpnd (reqOp d.wires) i = true → d.opndDriven.getLsbD i = true := by
  simp [Drive.keepsDuty, Classical.or_iff_not_imp_left]

theorem sameRequest_iff (v w : ReqV) : sameRequest v w = true ↔
    reqOp v = reqOp w ∧ ∀ i < 9, readsOpnd (reqOp v) i = true → opnd v i = opnd w i := by
  simp [sameRequest, Classical.or_iff_not_imp_left]

/-- R103's comparison of a held request with what stands in its place is the decoder's: it looks at what is decoded. -/
theorem sameRequest_iff_decode_eq (v w : ReqV) : sameRequest v w = true ↔ decode v = decode w := by
  rw [sameRequest_iff]
  constructor
  · rintro ⟨hop, hwords⟩
    obtain ⟨hbitlen, hpack, hinterp⟩ := (forall_readsOpnd_iff _ _).mp hwords
    exact (ignoredOperandWordsHaveNoEffect.1 v w hop hbitlen hpack hinterp).1
  · intro hdecode
    have hop : reqOp v = reqOp w := by rw [← opCode_decode v, hdecode, opCode_decode w]
    refine ⟨hop, fun i _ hreads => ?_⟩
    have hword := operands_decode_getD v i
    rwa [hdecode, operands_decode_getD, ← hop, if_pos hreads, if_pos hreads, eq_comm] at hword

section
variable {s : State} {held new : Drive}

theorem hostDrive_of_undriven (hfree : s.request = none) (hnew : new.keepsDuty = false) :
    hostDrive (some new) s = .fault .requestUndriven := by
  simp [hostDrive, hfree, hnew]

theorem hostDrive_withdraw (hheld : s.request = some held) : hostDrive none s = .fault .requestWithdrawn := by
  simp [hostDrive, hheld]

/-- A held request may change where its operation does not read (R51, R103). -/
theorem hostDrive_of_same (hheld : s.request = some held) (hnew : new.keepsDuty = true)
    (hsame : decode held.wires = decode new.wires) :
    hostDrive (some new) s = .next (s.withRequest (some new)) := by
  have hop : new.opDriven = true := ((keepsDuty_iff new).mp hnew).1
  simp [hostDrive, hheld, hop, hnew, (sameRequest_iff_decode_eq _ _).mpr hsame]

theorem hostDrive_of_changed (hheld : s.request = some held) (hop : new.opDriven = true)
    (hdiff : decode held.wires ≠ decode new.wires) : hostDrive (some new) s = .fault .requestChanged := by
  have hchanged : sameRequest held.wires new.wires = false :=
    Bool.eq_false_iff.mpr (mt (sameRequest_iff_decode_eq _ _).mp hdiff)
  simp [hostDrive, hheld, hop, hchanged]

/-- Drivers that leave a field undriven which the operation reads never go on, held request or none (R103). -/
theorem hostDrive_isFault_of_undriven (s : State) (hnew : new.keepsDuty = false) :
    ∃ f, hostDrive (some new) s = .fault f := by
  refine (hostDrive_isNext_or_isFault (some new) s).resolve_left ?_
  rintro ⟨t, ht⟩
  rcases hostDrive_next ht with ⟨-, hnone, -⟩ | ⟨d, hd, hduty, -⟩
  · cases hnone
  · cases hd
    simp [hnew] at hduty

end

/-- Settles O39: the drivers go from a held request to none. -/
theorem withdrawingARequestFaults : Obligations.WithdrawingARequestFaults :=
  fun _ _ _ hsch hheld => (step_of_drive hsch).trans (hostDrive_withdraw hheld)

/-- Settles O37: the comparison of the held request with the new drivers is that of what they decode to. -/
theorem heldRequestMustStayStable : Obligations.HeldRequestMustStayStable := by
  intro s held new es hsch hheld
  rw [step_of_drive hsch]
  exact ⟨hostDrive_of_same hheld, hostDrive_of_changed hheld, hostDrive_isFault_of_undriven _⟩

/-- Settles O38: the duty asks for REQ_OP and for the words that R48 gives each format. -/
theorem presentedRequestMustBeDriven : Obligations.PresentedRequestMustBeDriven := by
  intro s new es hsch hfree
  rw [step_of_drive hsch, ← forall_readsOpnd_iff _ fun i => new.opndDriven.getLsbD i = true, ← keepsDuty_iff]
  exact ⟨hostDrive_of_free hfree, fun hnew => hostDrive_of_undriven hfree (Bool.eq_false_iff.mpr hnew)⟩

end Sys2Proof.Machine
end

/-! SUPPORT. Taking, the end of a run, and the block left to itself (70_reset_and_hazards.md R104, R106, R109). -/

section
namespace Sys2Proof.Machine

theorem takeResponse_of_free {s : State} (h : s.response = none) : takeResponse s = .next s := by
  simp [takeResponse, h]

/-- Settles O41: a take delivers what is presented, or finds nothing. -/
theorem takingDeliversThePresentedResponse : Obligations.TakingDeliversThePresentedResponse := by
  intro s es hsch
  rw [step_of_take hsch]
  exact ⟨fun hfree => takeResponse_of_free hfree, fun r hr => takeResponse_of_presented hr⟩

/-- Settles O50: at the end nothing is presented or still to come, so the invariant's equation speaks of the responses
taken alone. -/
theorem endedRunsHaveEveryResponse : Obligations.EndedRunsHaveEveryResponse := by
  intro k s t hs hrun hend
  have hin : t.inOrder := (hs.of_run hrun).inOrder
  have hdrained : t.inflight = [] ∧ t.response = none := by
    simp only [State.ended, Bool.and_eq_true, List.isEmpty_iff, Option.isNone_iff_eq_none] at hend
    obtain ⟨⟨⟨hq, hr⟩, -⟩, -⟩ := hend
    exact ⟨hq, hr⟩
  simpa [State.inOrder, hdrained] using hin

/-- With nothing in flight, the block left to itself can only accept. -/
theorem blockTurn_eq_acceptRequest {s : State} (hq : s.inflight = []) (hfree : s.response = none) :
    blockTurn s = acceptRequest s := by
  simp [blockTurn, hq, hfree]

/-- With nothing in flight or presented, a slot is free: MAX_INFLIGHT is at least 1 (00_scope.md R14). -/
theorem slotsUsed_lt_of_drained {s : State} (hq : s.inflight = []) (hfree : s.response = none) :
    s.slotsUsed < Config.maxInflight := by
  simp [State.slotsUsed, hq, hfree, Config.maxInflight]

/-- Settles O35: the block's first turn accepts the request, its second performs it. -/
theorem blockLeftToItselfAnswers : Obligations.BlockLeftToItselfAnswers := by
  intro s d hsch hq hfree hd
  have haccept : step s = .next (s.enqueue d) := calc
    step s = blockTurn s := step_of_no_event hsch
    _ = acceptRequest s := blockTurn_eq_acceptRequest hq hfree
    _ = _ := acceptRequest_of_slot hd (slotsUsed_lt_of_drained hq hfree)
  have holdest : (s.enqueue d).inflight = [d.wires] := by simp [hq]
  have hperform : step (s.enqueue d) = .next (((s.enqueue d).withInflight []).present (respond d.wires)) := calc
    step (s.enqueue d) = blockTurn (s.enqueue d) := step_of_no_event hsch
    _ = performOldest (s.enqueue d) := blockTurn_eq_performOldest hfree holdest
    _ = _ := performOldest_presents hfree holdest
  exact ⟨_, (run_of_step haccept).trans (run_of_step hperform), rfl, rfl, rfl, rfl, rfl⟩

end Sys2Proof.Machine
end

/-! SUPPORT. A full block (70_reset_and_hazards.md R104): what keeps every slot as it is. -/

section
namespace Sys2Proof.Machine

/-- From `s` to `t` no request is accepted and no slot is taken or freed; one may move from the queue to the port. -/
structure State.KeepsSlots (s t : State) : Prop where
  accepted : t.accepted = s.accepted
  inflight : t.inflight.length ≤ s.inflight.length
  slotsUsed : t.slotsUsed = s.slotsUsed

theorem State.KeepsSlots.refl (s : State) : s.KeepsSlots s := ⟨rfl, le_rfl, rfl⟩

section
variable {s t : State}

/-- Performing moves a request's slot from the queue to the response port (log 3). -/
theorem performOldest_keepsSlots (h : performOldest s = .next t) : s.KeepsSlots t := by
  rcases performOldest_next h with ⟨rfl, -⟩ | ⟨v, rest, hfree, hq, rfl⟩
  · exact .refl _
  · exact ⟨rfl, by simp [hq], by simp [State.slotsUsed, hq, hfree]⟩

theorem acceptRequest_keepsSlots_of_full (hfull : Config.maxInflight ≤ s.slotsUsed) (h : acceptRequest s = .next t) :
    s.KeepsSlots t := by
  rcases acceptRequest_next h with ⟨rfl, -⟩ | ⟨d, -, hslot, -⟩
  · exact .refl _
  · exact absurd hfull (Nat.not_le.mpr hslot)

theorem blockTurn_keepsSlots_of_full (hfull : Config.maxInflight ≤ s.slotsUsed) (h : blockTurn s = .next t) :
    s.KeepsSlots t :=
  (blockTurn_next h).elim performOldest_keepsSlots (acceptRequest_keepsSlots_of_full hfull)

/-- Of a full block's slots only a reset, or a host that takes a presented response, can free one. -/
theorem runEvent_keepsSlots_of_full {e : Event} (hfull : Config.maxInflight ≤ s.slotsUsed)
    (h : runEvent e s = .next t) (htake : e = .take → s.response = none)
    (hawait : ∀ n, e = .awaitResponse n → s.response = none) (hreset : e ≠ .reset) : s.KeepsSlots t := by
  cases e with
  | drive d =>
    rcases hostDrive_next h with ⟨-, -, rfl⟩ | ⟨new, -, -, rfl⟩
    · exact .refl _
    · exact ⟨rfl, le_rfl, rfl⟩
  | accept => exact acceptRequest_keepsSlots_of_full hfull h
  | perform => exact performOldest_keepsSlots h
  | take =>
    cases (takeResponse_of_free (htake rfl)).symm.trans h
    exact .refl _
  | awaitResponse n =>
    have hfree : s.response = none := hawait n rfl
    rcases awaitResponse_next h with ⟨rfl, -⟩ | ⟨-, r, hr, -⟩ | ⟨-, -, hturn⟩
    · exact .refl _
    · simp [hfree] at hr
    · have hwait : Config.maxInflight ≤ (s.withSchedule (.awaitResponse n :: s.schedule)).slotsUsed := hfull
      obtain ⟨hacc, hq, hslots⟩ := blockTurn_keepsSlots_of_full hwait hturn
      exact ⟨hacc, hq, hslots⟩
  | read f =>
    obtain ⟨r, -, rfl⟩ := readField_next h
    exact ⟨rfl, le_rfl, rfl⟩
  | reset => exact absurd rfl hreset

end

/-- Settles O36: the block's turn and every event but the excluded ones keep the slots of a full block. -/
theorem fullBlockAcceptsNothingUntilTaken : Obligations.FullBlockAcceptsNothingUntilTaken := by
  intro s t hfull hstep htake hawait hreset
  have hkeeps : s.KeepsSlots t := by
    rcases step_next hstep with ⟨-, hturn⟩ | ⟨e, es, hsch, hevent⟩
    · exact blockTurn_keepsSlots_of_full hfull hturn
    · obtain ⟨hacc, hq, hslots⟩ := runEvent_keepsSlots_of_full (s := s.withSchedule es) hfull hevent
        (fun he => htake es (he ▸ hsch)) (fun n he => hawait n es (he ▸ hsch)) (fun he => hreset es (he ▸ hsch))
      exact ⟨hacc, hq, hslots⟩
  exact ⟨hkeeps.accepted, hkeeps.inflight, hkeeps.slotsUsed ▸ hfull⟩

end Sys2Proof.Machine
end

/-! SUPPORT. Reset and the requests it discards (70_reset_and_hazards.md R98, R99; 10_state.md R31). -/

section
namespace Sys2Proof.Machine

theorem step_of_reset {s : State} {es : List Event} (h : s.schedule = .reset :: es) :
    step s = .next (s.withSchedule es).resetBlock := step_of_event h

/-- Settles O42: the reset event is `State.resetBlock`. -/
theorem resetEmptiesTheQueue : Obligations.ResetEmptiesTheQueue :=
  fun _ _ => step_of_reset

/-- The block has nothing to do: no request in flight or on its port, and no response presented. -/
structure State.Idle (s : State) : Prop where
  inflight : s.inflight = []
  response : s.response = none
  request : s.request = none

section
variable {s t : State}

theorem acceptRequest_of_no_request (h : s.request = none) : acceptRequest s = .next s := by
  simp [acceptRequest, h]

theorem performOldest_of_no_inflight (h : s.inflight = []) : performOldest s = .next s := by
  cases hr : s.response <;> simp [performOldest, h, hr]

theorem State.Idle.withSchedule (h : s.Idle) (es : List Event) : (s.withSchedule es).Idle :=
  ⟨h.inflight, h.response, h.request⟩

theorem State.Idle.blockTurn_eq (h : s.Idle) : blockTurn s = .next s :=
  (blockTurn_eq_acceptRequest h.inflight h.response).trans (acceptRequest_of_no_request h.request)

/-- An idle block stays idle under every event that drives nothing, and only a wait comes back to the schedule. -/
theorem State.Idle.runEvent_next {e : Event} (h : s.Idle) (hdrive : ∀ d, e ≠ .drive d) (ht : runEvent e s = .next t) :
    t.Idle ∧ t.taken = s.taken ∧ (t.schedule = s.schedule ∨ t.schedule = e :: s.schedule) := by
  cases e with
  | drive d => exact absurd rfl (hdrive d)
  | accept =>
    cases (acceptRequest_of_no_request h.request).symm.trans ht
    exact ⟨h, rfl, .inl rfl⟩
  | perform =>
    cases (performOldest_of_no_inflight h.inflight).symm.trans ht
    exact ⟨h, rfl, .inl rfl⟩
  | take =>
    cases (takeResponse_of_free h.response).symm.trans ht
    exact ⟨h, rfl, .inl rfl⟩
  | awaitResponse n =>
    rcases awaitResponse_next ht with ⟨rfl, -⟩ | ⟨-, r, hr, -⟩ | ⟨-, -, hturn⟩
    · exact ⟨h, rfl, .inl rfl⟩
    · simp [h.response] at hr
    · have hwait := h.withSchedule (.awaitResponse n :: s.schedule)
      cases hwait.blockTurn_eq.symm.trans hturn
      exact ⟨hwait, rfl, .inr rfl⟩
  | read f =>
    obtain ⟨r, hr, -⟩ := readField_next ht
    simp [h.response] at hr
  | reset =>
    cases ht
    exact ⟨⟨rfl, rfl, h.request⟩, rfl, .inl rfl⟩

/-- An idle block that no event to come presents a request to. -/
structure State.Quiet (s : State) : Prop extends s.Idle where
  noDrive : ∀ d, Event.drive d ∉ s.schedule

theorem State.Quiet.step_next (h : s.Quiet) (ht : step s = .next t) : t.Quiet ∧ t.taken = s.taken := by
  rcases Machine.step_next ht with ⟨-, hturn⟩ | ⟨e, es, hsch, hevent⟩
  · cases h.toIdle.blockTurn_eq.symm.trans hturn
    exact ⟨h, rfl⟩
  · have hdrive : ∀ d, Event.drive d ∉ e :: es := hsch ▸ h.noDrive
    have he : ∀ d, e ≠ .drive d := fun d hd => hdrive d (hd ▸ List.mem_cons_self)
    obtain ⟨hidle, htaken, hleft⟩ := (h.toIdle.withSchedule es).runEvent_next he hevent
    have hsub : t.schedule ⊆ e :: es := by
      rcases hleft with hleft | hleft <;> simp [hleft]
    exact ⟨⟨hidle, fun d hd => hdrive d (hsub hd)⟩, htaken⟩

theorem State.Quiet.run_next {k : Nat} (h : s.Quiet) (ht : Sys2Proof.core.run k s = .next t) :
    t.Quiet ∧ t.taken = s.taken := by
  refine run_induction (P := fun u => u.Quiet ∧ u.taken = s.taken) ?_ k s t ⟨h, rfl⟩ ht
  rintro u w ⟨hu, hutaken⟩ hstep
  obtain ⟨hw, hwtaken⟩ := hu.step_next hstep
  exact ⟨hw, hwtaken.trans hutaken⟩

end

/-- Settles O44: reset leaves the block idle, and with nothing driven no step presents or takes a response. -/
theorem discardedRequestsGetNoResponse : Obligations.DiscardedRequestsGetNoResponse := by
  intro s t es hsch hreq hdrive k hrun
  have hquiet : (s.withSchedule es).resetBlock.Quiet := ⟨⟨rfl, rfl, hreq⟩, hdrive⟩
  rw [run_of_step (step_of_reset hsch)] at hrun
  obtain ⟨ht, htaken⟩ := hquiet.run_next hrun
  exact ⟨htaken, ht.response⟩

end Sys2Proof.Machine
end

/-! SUPPORT. A host that waits for the response to a discarded request (R99, 93 I9; log 24). -/

section
namespace Sys2Proof.Machine

/-- Number `n` was given to an accepted request that is no longer among the accepted ones: a reset discarded it. -/
structure State.Discarded (n : Nat) (s : State) : Prop where
  numbered : n < s.acceptances
  absent : ∀ a ∈ s.accepted, a.number ≠ n

section
variable {s t : State} {n : Nat}

theorem State.Discarded.not_answered (h : s.Discarded n) : s.answered n = false := by
  simp only [State.answered, List.any_eq_false, beq_iff_eq]
  exact fun o ho => h.absent o.1 (List.of_mem_zip ho).1

/-- A request accepted later has a higher number. -/
theorem State.Discarded.enqueue (h : s.Discarded n) (d : Drive) : (s.enqueue d).Discarded n where
  numbered := Nat.lt_succ_of_lt h.numbered
  absent a ha := by
    rcases List.mem_append.mp ha with ha | ha
    · exact h.absent a ha
    · obtain rfl := List.mem_singleton.mp ha
      exact h.numbered.ne'

theorem State.Discarded.of_blockTurn (h : s.Discarded n) (ht : blockTurn s = .next t) : t.Discarded n := by
  rcases blockTurn_next ht with ht | ht
  · rcases performOldest_next ht with ⟨rfl, -⟩ | ⟨v, rest, -, -, rfl⟩
    · exact h
    · exact ⟨h.numbered, h.absent⟩
  · rcases acceptRequest_next ht with ⟨rfl, -⟩ | ⟨d, -, -, rfl⟩
    · exact h
    · exact h.enqueue d

/-- A step of a host that waits for a discarded request's response leaves it waiting. -/
theorem State.Discarded.step_of_waiting {es : List Event} (h : s.Discarded n)
    (hsch : s.schedule = .awaitResponse n :: es) :
    ∃ t, step s = .next t ∧ t.schedule = .awaitResponse n :: es ∧ t.Discarded n := by
  have hstep : step s = awaitResponse n (s.withSchedule es) := step_of_awaitResponse hsch
  obtain ⟨t, ht⟩ := awaitResponse_isNext n (s.withSchedule es)
  refine ⟨t, hstep.trans ht, ?_⟩
  rcases awaitResponse_next ht with ⟨-, hans⟩ | ⟨-, r, -, rfl⟩ | ⟨-, -, hturn⟩
  · exact absurd hans (Bool.eq_false_iff.mp h.not_answered)
  · exact ⟨rfl, h.numbered, h.absent⟩
  · have hwait : ((s.withSchedule es).withSchedule (.awaitResponse n :: es)).Discarded n := ⟨h.numbered, h.absent⟩
    exact ⟨(blockTurn_frame hturn).1, hwait.of_blockTurn hturn⟩

theorem State.Discarded.run_of_waiting {es : List Event} (h : s.Discarded n)
    (hsch : s.schedule = .awaitResponse n :: es) (k : Nat) :
    ∃ t, Sys2Proof.core.run k s = .next t ∧ t.schedule = .awaitResponse n :: es ∧ t.Discarded n := by
  induction k generalizing s with
  | zero => exact ⟨s, rfl, hsch, h⟩
  | succ k ih =>
    obtain ⟨u, hstep, husch, hu⟩ := h.step_of_waiting hsch
    obtain ⟨t, hrun, ht⟩ := ih hu husch
    exact ⟨t, (run_of_step hstep).trans hrun, ht⟩

/-- Reset discards every accepted request whose response has not been taken. -/
theorem State.numbered.discarded_resetBlock (h : s.numbered) {a : Ticket} (ha : a ∈ s.accepted.drop s.taken.length) :
    s.resetBlock.Discarded a.number where
  numbered := h.2 a (List.mem_of_mem_drop ha)
  absent b hb := by
    have hpair := h.1
    rw [← List.take_append_drop s.taken.length s.accepted, List.pairwise_append] at hpair
    obtain ⟨-, -, hlt⟩ := hpair
    exact (hlt b hb a ha).ne

end

/-- Settles O53: no accepted request has the discarded one's number, and none will, so the wait is never over. -/
theorem waitingForADiscardedResponseNeverEnds : Obligations.WaitingForADiscardedResponseNeverEnds := by
  intro s a es hs hsch ha k
  have hdrop : a ∈ s.accepted.drop s.taken.length := by
    rw [← List.drop_drop] at ha
    exact List.mem_of_mem_drop ha
  have hdisc : (s.withSchedule (.awaitResponse a.number :: es)).resetBlock.Discarded a.number :=
    (hs.withSchedule _).numbered.discarded_resetBlock hdrop
  obtain ⟨t, hrun, htsch, ht⟩ := hdisc.run_of_waiting rfl k
  exact ⟨t, (run_of_step (step_of_reset hsch)).trans hrun, htsch, ht.not_answered⟩

end Sys2Proof.Machine
end

/-! SUPPORT. The record of ILL = 1 along a run (93_implementation_defined.md I5). -/

section
namespace Sys2Proof.Machine

section
variable {s t : State}

/-- Presenting a response can only set the record. -/
theorem performOldest_keeps_faultRecorded (h : performOldest s = .next t) (hs : s.faultRecorded = true) :
    t.faultRecorded = true := by
  rcases performOldest_next h with ⟨rfl, -⟩ | ⟨v, rest, -, -, rfl⟩
  · exact hs
  · simp [hs]

theorem acceptRequest_faultRecorded (h : acceptRequest s = .next t) : t.faultRecorded = s.faultRecorded := by
  rcases acceptRequest_next h with ⟨rfl, -⟩ | ⟨d, -, -, rfl⟩ <;> rfl

theorem blockTurn_keeps_faultRecorded (h : blockTurn s = .next t) (hs : s.faultRecorded = true) :
    t.faultRecorded = true := by
  rcases blockTurn_next h with hperform | haccept
  · exact performOldest_keeps_faultRecorded hperform hs
  · exact (acceptRequest_faultRecorded haccept).trans hs

/-- Only performing writes the record: the other events, reset among them, leave it as it is. -/
theorem runEvent_keeps_faultRecorded {e : Event} (h : runEvent e s = .next t) (hs : s.faultRecorded = true) :
    t.faultRecorded = true := by
  cases e with
  | drive d => rcases hostDrive_next h with ⟨-, -, rfl⟩ | ⟨new, -, -, rfl⟩ <;> exact hs
  | accept => exact (acceptRequest_faultRecorded h).trans hs
  | perform => exact performOldest_keeps_faultRecorded h hs
  | take => rcases takeResponse_next h with ⟨rfl, -⟩ | ⟨r, -, rfl⟩ <;> exact hs
  | awaitResponse n =>
    rcases awaitResponse_next h with ⟨rfl, -⟩ | ⟨-, r, -, rfl⟩ | ⟨-, -, hturn⟩
    · exact hs
    · exact hs
    · exact blockTurn_keeps_faultRecorded hturn hs
  | read f =>
    obtain ⟨r, -, rfl⟩ := readField_next h
    exact hs
  | reset =>
    cases h
    exact hs

theorem step_keeps_faultRecorded (hs : s.faultRecorded = true) (h : step s = .next t) : t.faultRecorded = true := by
  rcases step_next h with ⟨-, hturn⟩ | ⟨e, es, -, hevent⟩
  · exact blockTurn_keeps_faultRecorded hturn hs
  · exact runEvent_keeps_faultRecorded hevent hs

end

/-- Settles O46: every step keeps the record, so every run does. -/
theorem faultRecordIsNeverCleared : Obligations.FaultRecordIsNeverCleared :=
  run_induction fun _ _ => step_keeps_faultRecorded

end Sys2Proof.Machine
end

/-! SUPPORT. Request vectors written out (30_encoding.md R47, 95_test_vectors.md §3). -/

section
namespace Sys2Proof.Machine

/-- Settles O1: each vector's low two bits choose its arm, and the operand slices evaluate to the listed words. -/
theorem writtenOutRequestsDecode : Obligations.WrittenOutRequestsDecode := by
  and_intros
  · rw [decode_of_bitlen (by simp [reqOp])]
    simp [opnd]
  · rw [decode_of_pack (by simp [reqOp])]
    simp [opnd]
  · rw [decode_of_interp (by simp [reqOp])]
    simp [opnd]
  · exact decode_of_rsv (by simp [reqOp])

end Sys2Proof.Machine
end
